-- ==== Sys2Proof/Word.lean ====
section
/-!
DEFINITION. The word types of the machine (spec/10_state.md R13): an 8-bit byte, a 16-bit word, the name of a general
register and the name of a key.
-/
namespace Sys2Proof

/-- An 8-bit value: a memory cell, a general register, a timer (R13). -/
abbrev Byte := BitVec 8

/-- A 16-bit value: an instruction word, `pc`, `I`, `ir`, a stack slot (R13, R45). -/
abbrev Word := BitVec 16

/-- The name of a general register, V0..VF (R14). It also counts: FX55 and FX65 move the registers V0..VX (R49). -/
abbrev Reg := Fin 16

/-- The index of a key, 0..15 (R25). -/
abbrev Key := Fin 16

end Sys2Proof
end

