-- ==== Sys2Proof/Config.lean ====
section
/-!
DEFINITION. What an implementation fixes and what stays free: the parameters that spec/00_scope.md R5 stars (`FONT`,
`DRAW_EDGE`), and the host's random bytes. The parameters' DEFAULTS are in Sys2Proof/Machine/Parameters.lean.
-/
namespace Sys2Proof

/-- The parameter `DRAW_EDGE` (R97): what DRW does with a set sprite bit outside the 64 x 32 grid. -/
inductive DrawEdge where
  /-- Coordinates are taken modulo the grid. -/
  | wrap
  /-- A pixel outside the grid is neither drawn nor tested. -/
  | clip
  /-- DRW raises `FramebufferOutOfBounds` before any write. -/
  | fault
  deriving DecidableEq, Repr

/-- The two parameters that a model takes as arguments (R5; 92_eei_decisions.md D6, D22). They stand in `State` as
constant data, so that a statement about every state holds for every font and every edge policy. -/
structure Params where
  /-- `FONT`: the 80 glyph bytes that the resets write at address 0 (R36). -/
  font : Vector Byte 80
  /-- `DRAW_EDGE` (R97). -/
  drawEdge : DrawEdge
  deriving DecidableEq, Repr

/-- The random byte `rnd` that the host supplies (R46, R86): `hostRnd n` is the n-th one RND reads. It has no body,
so a proof can use neither its value nor its distribution (93_implementation_defined.md U7: any value). Log entry 4. -/
opaque Config.hostRnd : Nat → Byte

end Sys2Proof
end

