-- ==== Sys2Proof/Machine/Parameters.lean ====
section
/-!
DEFINITION. The implementation parameters of spec/00_scope.md R5: the fixed sizes, and the defaults of the two that a
model takes as arguments (log entries 2 and 3).
-/
namespace Sys2Proof.Machine

/-- `MEM_SIZE`: addresses 0x000..0xFFF (R5, R33). -/
abbrev memSize : Nat := 4096

/-- `LOAD_ADDR`, which is also the reset value of `pc` (R5, R32). -/
abbrev loadAddr : Nat := 0x200

/-- `IMAGE_MAX`: the longest image LOAD takes (R5, R132). -/
abbrev imageMax : Nat := 0xDFF

/-- `FONT_LEN` (R5). -/
abbrev fontLen : Nat := 80

/-- `GLYPH_STRIDE` (R5, R90). -/
abbrev glyphStride : Nat := 5

/-- The default of `FONT` (R36), glyph by glyph. PRESUMED: the spec takes these bytes from general knowledge (log
entry 2). -/
def defaultFont : Vector Byte 80 := #v[
  0xF0, 0x90, 0x90, 0x90, 0xF0,
  0x20, 0x60, 0x20, 0x20, 0x70,
  0xF0, 0x10, 0xF0, 0x80, 0xF0,
  0xF0, 0x10, 0xF0, 0x10, 0xF0,
  0x90, 0x90, 0xF0, 0x10, 0x10,
  0xF0, 0x80, 0xF0, 0x10, 0xF0,
  0xF0, 0x80, 0xF0, 0x90, 0xF0,
  0xF0, 0x10, 0x20, 0x40, 0x40,
  0xF0, 0x90, 0xF0, 0x90, 0xF0,
  0xF0, 0x90, 0xF0, 0x10, 0xF0,
  0xF0, 0x90, 0xF0, 0x90, 0x90,
  0xE0, 0x90, 0xE0, 0x90, 0xE0,
  0xF0, 0x80, 0x80, 0x80, 0xF0,
  0xE0, 0x90, 0x90, 0x90, 0xE0,
  0xF0, 0x80, 0xF0, 0x80, 0xF0,
  0xF0, 0x80, 0xF0, 0x80, 0x80]

/-- The default of `DRAW_EDGE` (R5, R97). DESIGN CHOICE (log entry 3). -/
def defaultDrawEdge : DrawEdge := .wrap

/-- The parameters that `State.reset` holds. -/
def defaultParams : Params := { font := defaultFont, drawEdge := defaultDrawEdge }

end Sys2Proof.Machine
end

