-- ==== Sys2Proof/Syntax.lean ====
section
/-!
DEFINITION. The instruction set: one constructor per row of spec/opcode_table.json, with the operand fields of
spec/30_encoding.md R49. A field that the spec ignores (R57) is no operand. Every field is typed by its range, so an
`Instr` has no ill-formed term; the checks on words are in Sys2Proof/WellFormed.lean.
-/
namespace Sys2Proof

/-- One operation with its operands (R47: "a closed set of operation variants"). `x`, `y` name registers, `kk` is an
8-bit immediate, `nnn` a 12-bit address, `n` the sprite height (R49). -/
inductive Instr where
  /-- CLS, 0x?E0 (R94). -/
  | cls
  /-- RET, 0x?EE (R63). -/
  | ret
  /-- JP nnn, 1NNN (R64). -/
  | jp (nnn : BitVec 12)
  /-- CALL nnn, 2NNN (R65). -/
  | call (nnn : BitVec 12)
  /-- SE Vx, kk, 3XKK (R66). -/
  | seImm (x : Reg) (kk : Byte)
  /-- SNE Vx, kk, 4XKK (R67). -/
  | sneImm (x : Reg) (kk : Byte)
  /-- SE Vx, Vy, 5XY? (R68). -/
  | seReg (x y : Reg)
  /-- LD Vx, kk, 6XKK (R75). -/
  | ldImm (x : Reg) (kk : Byte)
  /-- ADD Vx, kk, 7XKK (R76). -/
  | addImm (x : Reg) (kk : Byte)
  /-- LD Vx, Vy, 8XY0 (R77). -/
  | ldReg (x y : Reg)
  /-- OR Vx, Vy, 8XY1 (R78). -/
  | or (x y : Reg)
  /-- AND Vx, Vy, 8XY2 (R79). -/
  | and (x y : Reg)
  /-- XOR Vx, Vy, 8XY3 (R80). -/
  | xor (x y : Reg)
  /-- ADD Vx, Vy, 8XY4 (R81). -/
  | addReg (x y : Reg)
  /-- SUB Vx, Vy, 8XY5 (R82). -/
  | sub (x y : Reg)
  /-- SHR Vx, 8X?6 (R84). -/
  | shr (x : Reg)
  /-- SUBN Vx, Vy, 8XY7 (R83). -/
  | subn (x y : Reg)
  /-- SHL Vx, 8X?E (R85). -/
  | shl (x : Reg)
  /-- SNE Vx, Vy, 9XY? (R69). -/
  | sneReg (x y : Reg)
  /-- LD I, nnn, ANNN (R88). -/
  | ldI (nnn : BitVec 12)
  /-- JP V0, nnn, BNNN (R70). -/
  | jpV0 (nnn : BitVec 12)
  /-- RND Vx, kk, CXKK (R86). -/
  | rnd (x : Reg) (kk : Byte)
  /-- DRW Vx, Vy, n, DXYN (R95). -/
  | drw (x y : Reg) (n : Fin 16)
  /-- SKP Vx, EX9E (R99). -/
  | skp (x : Reg)
  /-- SKNP Vx, EXA1 (R100). -/
  | sknp (x : Reg)
  /-- LD Vx, DT, FX07 (R101). -/
  | ldVxDt (x : Reg)
  /-- LD Vx, K, FX0A (R102). -/
  | ldVxK (x : Reg)
  /-- LD DT, Vx, FX15 (R103). -/
  | ldDtVx (x : Reg)
  /-- LD ST, Vx, FX18 (R104). -/
  | ldStVx (x : Reg)
  /-- ADD I, Vx, FX1E (R89). -/
  | addIVx (x : Reg)
  /-- LD F, Vx, FX29 (R90). -/
  | ldFVx (x : Reg)
  /-- LD B, Vx, FX33 (R91). -/
  | ldBVx (x : Reg)
  /-- LD [I], Vx, FX55 (R92). -/
  | ldMemVx (x : Reg)
  /-- LD Vx, [I], FX65 (R93). -/
  | ldVxMem (x : Reg)
  deriving DecidableEq, Repr

/-- The identifier of the operation in spec/opcode_table.json (R61). -/
def Instr.mnemonic : Instr → String
  | .cls => "CLS"
  | .ret => "RET"
  | .jp _ => "JP"
  | .call _ => "CALL"
  | .seImm _ _ => "SE_IMM"
  | .sneImm _ _ => "SNE_IMM"
  | .seReg _ _ => "SE_REG"
  | .ldImm _ _ => "LD_IMM"
  | .addImm _ _ => "ADD_IMM"
  | .ldReg _ _ => "LD_REG"
  | .or _ _ => "OR"
  | .and _ _ => "AND"
  | .xor _ _ => "XOR"
  | .addReg _ _ => "ADD_REG"
  | .sub _ _ => "SUB"
  | .shr _ => "SHR"
  | .subn _ _ => "SUBN"
  | .shl _ => "SHL"
  | .sneReg _ _ => "SNE_REG"
  | .ldI _ => "LD_I"
  | .jpV0 _ => "JP_V0"
  | .rnd _ _ => "RND"
  | .drw _ _ _ => "DRW"
  | .skp _ => "SKP"
  | .sknp _ => "SKNP"
  | .ldVxDt _ => "LD_VX_DT"
  | .ldVxK _ => "LD_VX_K"
  | .ldDtVx _ => "LD_DT_VX"
  | .ldStVx _ => "LD_ST_VX"
  | .addIVx _ => "ADD_I_VX"
  | .ldFVx _ => "LD_F_VX"
  | .ldBVx _ => "LD_B_VX"
  | .ldMemVx _ => "LD_MEM_VX"
  | .ldVxMem _ => "LD_VX_MEM"

end Sys2Proof
end

