-- ==== Sys2Proof/Machine/State.lean ====
section
/-!
DEFINITION. The machine's state as plain data, field by field the record of spec/10_state.md R13, with the parameters
and the counter of random bytes beside it; the reasons a step can stop; the state after HARD_RESET (R32, R133).
-/
namespace Sys2Proof.Machine

/-- A runtime fault of the spec (R108 to R110, codes 1 to 6). It is latched in `lastError` by the fault procedure (R112),
which the model TAKES as a next state (`State.takeFault`), so that no step answers `Host.Outcome.fault` (log entry 1).
LOAD's two failures are not runtime faults and are never latched (R110): see `LoadResult`. -/
inductive Fault where
  /-- The fetched word is no operation (R46, R58). Raised by the engine. Safe: the spec gives the halt. -/
  | unknownOpcode
  /-- CALL with `sp = 16` (R65). Raised by `execCall`. Safe: the spec gives the halt. -/
  | stackOverflow
  /-- RET with `sp = 0` (R63). Raised by `execRet`. Safe: the spec gives the halt. -/
  | stackUnderflow
  /-- A set sprite bit outside the grid under `DRAW_EDGE = Fault` (R97). Raised by `execDrw`. Safe: the spec gives the halt. -/
  | framebufferOutOfBounds
  /-- An access to an address above 0xFFF (R38). Raised by the fetch, `execDrw`, `execLdBVx`, `execLdMemVx` and
  `execLdVxMem`. Safe: the spec gives the halt. -/
  | addressOutOfRange
  /-- A key index above 15 (R99, R100). Raised by `execSkp` and `execSknp`. Safe: the spec gives the halt. -/
  | keyIndexOutOfRange
  deriving DecidableEq, Repr

/-- Why a step has no meaning. -/
inductive Refusal where
  /-- An instruction whose meaning is not written. Raised by no arm of `exec`: every instruction has its meaning. Safe. -/
  | notModelled (mnemonic : String)
  deriving DecidableEq, Repr

/-- Memory: the cells that differ from their reset contents, addresses strictly rising (log entry 6). -/
abbrev Memory := List Host.Cell

/-- The framebuffer: 32 rows of 64 one-bit cells, `fb[r][c]` (R24). -/
abbrev Framebuffer := Vector (Vector Bool 64) 32

/-- The Machine State (R13). -/
structure State where
  /-- `mem` (R33), read and written through Sys2Proof/Machine/Memory.lean. -/
  mem : Memory
  /-- `V[0]`..`V[15]`; `V[15]` is VF (R14, R15). -/
  v : Vector Byte 16
  /-- `I` (R17). -/
  i : Word
  /-- `pc` (R18). -/
  pc : Word
  /-- `stack[0..15]` (R21). -/
  stack : Vector Word 16
  /-- `sp`, 0..16, the number of occupied slots (R21). -/
  sp : Fin 17
  /-- `DT` (R23). -/
  dt : Byte
  /-- `ST` (R23). -/
  st : Byte
  /-- `fb` (R24). -/
  fb : Framebuffer
  /-- `key[0..15]`, true is down (R25). -/
  key : Vector Bool 16
  /-- `ir` (R26). -/
  ir : Word
  /-- `exec_enabled` (R28). -/
  execEnabled : Bool
  /-- `fb_changed` (R29). -/
  fbChanged : Bool
  /-- `paused` (R29). -/
  paused : Bool
  /-- `key_captured` (R29). -/
  keyCaptured : Bool
  /-- `last_error` (R30); `none` is the code `None`. -/
  lastError : Option Fault
  /-- `FONT` and `DRAW_EDGE` (R5): constant, written by nothing. -/
  params : Params
  /-- The model's own field: how many random bytes RND has read (log entry 4). -/
  rndCount : Nat
  deriving DecidableEq, Repr

/-- The state after HARD_RESET (R32, R133), with the default parameters (log entries 2 and 3) and no random byte read yet
(DESIGN CHOICE, log entry 4). Memory lists nothing: every cell holds its reset contents. -/
def State.reset : State where
  mem := []
  v := Vector.replicate 16 0
  i := 0
  pc := 0x200
  stack := Vector.replicate 16 0
  sp := 0
  dt := 0
  st := 0
  fb := Vector.replicate 32 (Vector.replicate 64 false)
  key := Vector.replicate 16 false
  ir := 0
  execEnabled := true
  fbChanged := false
  paused := false
  keyCaptured := false
  lastError := none
  params := defaultParams
  rndCount := 0

/-- What a step answers. -/
abbrev Answer := Host.Outcome State Fault Refusal

end Sys2Proof.Machine
end

