-- ==== Sys2Proof/Machine/Memory.lean ====
section
/-!
DEFINITION. The memory (spec/20_memory.md): one space of 4096 byte cells, held as the cells that differ from their reset
contents; its canonical form; reads and writes of one byte and of a block of bytes.
-/
namespace Sys2Proof.Machine

/-- What a cell holds after a hard reset, and so what an unlisted address reads as: `FONT` at 0..79, 0 elsewhere (R32,
R133; log entry 6). -/
def resetByte (font : Vector Byte 80) (a : Nat) : Byte :=
  if h : a < fontLen then font[a] else 0

/-- The listed value at an address. -/
def Memory.lookup : Memory → Nat → Option Byte
  | [], _ => none
  | (b, w) :: m, a => if a = b then some w else Memory.lookup m a

/-- The byte at an address: listed, or the reset contents. -/
def Memory.read (font : Vector Byte 80) (m : Memory) (a : Nat) : Byte :=
  (Memory.lookup m a).getD (resetByte font a)

/-- Listing a value at an address, keeping the addresses rising. -/
def Memory.insert : Memory → Nat → Byte → Memory
  | [], a, v => [(a, v)]
  | (b, w) :: m, a, v =>
    if a < b then (a, v) :: (b, w) :: m
    else if a = b then (a, v) :: m
    else (b, w) :: Memory.insert m a v

/-- Unlisting an address. -/
def Memory.erase (m : Memory) (a : Nat) : Memory := m.filter fun c => decide (c.1 ≠ a)

/-- `MemWrite(a, 1, v)` (R38): one cell changes. Writing the reset contents unlists the address. At an address above
0xFFF the access is not performed; every instruction checks its range before its first write (R9, R38). -/
def Memory.write (font : Vector Byte 80) (m : Memory) (a : Nat) (v : Byte) : Memory :=
  if a < memSize then
    if v = resetByte font a then Memory.erase m a else Memory.insert m a v
  else m

/-- Writing bytes at rising addresses from `a` (R39: FX33, FX55; R132: LOAD). -/
def Memory.writeBytes (font : Vector Byte 80) (m : Memory) (a : Nat) : List Byte → Memory
  | [] => m
  | v :: vs => Memory.writeBytes font (Memory.write font m a v) (a + 1) vs

/-- The canonical form: addresses strictly rising, all in the space, no cell at its reset contents. -/
abbrev Memory.wf (font : Vector Byte 80) (m : Memory) : Prop :=
  m.Pairwise (fun c d => c.1 < d.1) ∧ ∀ c ∈ m, c.1 < memSize ∧ c.2 ≠ resetByte font c.1

/-- `MemRead(a, 1)` (R38), for an address the caller has checked. -/
def State.readByte (s : State) (a : Nat) : Byte := Memory.read s.params.font s.mem a

/-- The `n` bytes from `a` (R95: the sprite rows). -/
def State.readBytes (s : State) (a : Nat) : Nat → List Byte
  | 0 => []
  | n + 1 => s.readByte a :: s.readBytes (a + 1) n

/-- `MemWrite(a, 1, v)` (R38), for an address the caller has checked. -/
def State.writeByte (s : State) (a : Nat) (v : Byte) : State :=
  { s with mem := Memory.write s.params.font s.mem a v }

/-- Writing bytes at rising addresses from `a`. -/
def State.writeBytes (s : State) (a : Nat) (vs : List Byte) : State :=
  { s with mem := Memory.writeBytes s.params.font s.mem a vs }

/-- The range check of R38 over the `n` addresses from `a`, unbounded naturals: all are at most 0xFFF. An instruction that
accesses nothing (DRW with N = 0) is in range. -/
def inRange (a n : Nat) : Bool := n == 0 || decide (a + n ≤ memSize)

end Sys2Proof.Machine
end

