-- ==== Sys2Proof/Machine/Ops.lean ====
section
/-!
DEFINITION. The named operations over the registers, the program counter, the stack and the faults, which every meaning
goes through.
-/
namespace Sys2Proof.Machine

/-- `V[r]` (R8, R14). -/
def State.reg (s : State) (r : Reg) : Byte := s.v[r]

/-- `V[r] <- b` (R8). -/
def State.setReg (s : State) (r : Reg) (b : Byte) : State := { s with v := s.v.set r b }

/-- The flag register VF (R15). -/
abbrev vF : Reg := 15

/-- The write order of the flag-setting operations (R74): VF gets the flag, then `V[x]` the result, so that with
`x = 0xF` the result stays. -/
def State.setFlagThenReg (s : State) (flag : Byte) (x : Reg) (result : Byte) : State :=
  (s.setReg vF flag).setReg x result

/-- `I <- w` (R17). -/
def State.setI (s : State) (w : Word) : State := { s with i := w }

/-- `ir <- w` (R26). -/
def State.setIr (s : State) (w : Word) : State := { s with ir := w }

/-- `pc <- w` (R18). -/
def State.setPc (s : State) (w : Word) : State := { s with pc := w }

/-- Advance one width: `pc <- (pc + 2) mod 65536` (R11). -/
def State.advance (s : State) : State := s.setPc (s.pc + 2)

/-- A skip: two widths if the condition holds, else one (R11, R66). -/
def State.skipIf (s : State) (c : Bool) : State := s.setPc (if c then s.pc + 4 else s.pc + 2)

/-- The push of CALL (R21, R65): `stack[sp] <- w`, `sp <- sp + 1`; `none` where `sp = 16`. -/
def State.push (s : State) (w : Word) : Option State :=
  if h : s.sp.val < 16 then
    some { s with stack := s.stack.set s.sp.val w, sp := ⟨s.sp.val + 1, Nat.succ_lt_succ h⟩ }
  else none

/-- The pop of RET (R21, R63): `sp <- sp - 1` and the slot it then names; `none` where `sp = 0`. The slot is not cleared
(R22). -/
def State.pop (s : State) : Option (Word × State) :=
  if h : 0 < s.sp.val then
    some (s.stack[s.sp.val - 1]'(by have := s.sp.isLt; omega),
      { s with sp := ⟨s.sp.val - 1, by have := s.sp.isLt; omega⟩ })
  else none

/-- The fault procedure (R112), the one way a fault is taken: the code is latched and the core halts; nothing else
changes (R9, R113). -/
def State.takeFault (s : State) (f : Fault) : State := { s with lastError := some f, execEnabled := false }

/-- `raise Fault(f)` (R9): the state before the instruction's writes goes through the fault procedure. There is no return
from a fault but a reset (R114). -/
def raise (f : Fault) (s : State) : Answer := .next (s.takeFault f)

end Sys2Proof.Machine
end

