-- ==== Sys2Proof/Machine/Flags.lean ====
section
/-!
DEFINITION. The values written to VF (spec/10_state.md R16), all of them 0 or 1.
-/
namespace Sys2Proof.Machine

/-- A flag as a byte: 1 or 0. -/
def flagByte (b : Bool) : Byte := if b then 1 else 0

/-- The carry of ADD Vx, Vy: the sum, computed at wider precision, exceeds 255 (R81). -/
def carryFlag (a b : Byte) : Byte := flagByte (decide (a.toNat + b.toNat > 255))

/-- Not-borrow: the minuend is STRICTLY greater (R82, R83). -/
def notBorrowFlag (minuend subtrahend : Byte) : Byte := flagByte (decide (minuend.toNat > subtrahend.toNat))

/-- The bit that SHR shifts out: bit 0 (R84). -/
def shrFlag (a : Byte) : Byte := a &&& 0x01

/-- The bit that SHL shifts out: bit 7, by the mask 0x80 (R85; 90_conflicts.md C7). -/
def shlFlag (a : Byte) : Byte := (a &&& 0x80) >>> 7

end Sys2Proof.Machine
end

