-- ==== Sys2Proof/Machine/Operands.lean ====
section
/-!
DEFINITION. The operand forms (spec/30_encoding.md R49, spec/42_index_memory.md R87): a 12-bit address widened, the byte
block at `I`, the registers as a block, the decimal digits, the glyph address, the keys.
-/
namespace Sys2Proof.Machine

/-- `zext_16(NNN)` (R49). -/
def addressOf (nnn : BitVec 12) : Word := nnn.zeroExtend 16

/-- The effective address of the k-th byte an instruction moves: `I + k`, without wrap (R87). -/
def State.dataAddress (s : State) (k : Nat) : Nat := s.i.toNat + k

/-- The registers `V[0] .. V[x]` in order (R92). -/
def State.regsUpTo (s : State) (x : Reg) : List Byte := s.v.toList.take (x.val + 1)

/-- `V[k] <- mem[I + k]` for every k up to x, the other registers as they are (R93). -/
def State.regsFromMem (s : State) (x : Reg) : Vector Byte 16 :=
  Vector.ofFn fun k => if k ≤ x then s.readByte (s.dataAddress k.val) else s.reg k

/-- `I <- (I + X + 1) mod 65536` (R92, R93). -/
def State.indexPast (s : State) (x : Reg) : Word := BitVec.ofNat 16 (s.i.toNat + x.val + 1)

/-- Hundreds, tens and ones of a byte, one digit a byte (R91). -/
def bcdDigits (a : Byte) : List Byte :=
  [BitVec.ofNat 8 (a.toNat / 100), BitVec.ofNat 8 (a.toNat / 10 % 10), BitVec.ofNat 8 (a.toNat % 10)]

/-- The address of a glyph: `V[X] * 5`, computed for every value (R90). -/
def glyphAddress (a : Byte) : Word := BitVec.ofNat 16 (a.toNat * glyphStride)

/-- The key a register names, `none` above 15 (R99). -/
def keyIndex (a : Byte) : Option Key := if h : a.toNat < 16 then some ⟨a.toNat, h⟩ else none

/-- The key is down, as it stands at this step (R99). -/
def State.keyDown (s : State) (k : Key) : Bool := s.key[k]

/-- The highest key down: "last match wins" scanning 0 to 15 (R102; 90_conflicts.md C4); `none` where no key is down. -/
def State.lastKeyDown (s : State) : Option Key :=
  (List.finRange 16).foldl (fun acc k => if s.keyDown k then some k else acc) none

end Sys2Proof.Machine
end

