-- ==== Sys2Proof/Machine/Alu.lean ====
section
/-!
DEFINITION. Register arithmetic, logic and the random byte (spec/41_alu.md R73 to R86).
-/
namespace Sys2Proof.Machine

/-- `V[x] <- result`, `pc` advanced, no flag: the shape of the operations of R75 to R80. -/
def writeReg (x : Reg) (result : Byte) (s : State) : Answer := .next (s.setReg x result).advance

/-- VF, then `V[x]`, then `pc` (R74): the shape of the flag-setting operations of R81 to R85. -/
def writeFlagAndReg (flag : Byte) (x : Reg) (result : Byte) (s : State) : Answer :=
  .next (s.setFlagThenReg flag x result).advance

/-- LD Vx, kk (R75). -/
def execLdImm (x : Reg) (kk : Byte) (s : State) : Answer := writeReg x kk s

/-- ADD Vx, kk (R76): modulo 256, no flag. -/
def execAddImm (x : Reg) (kk : Byte) (s : State) : Answer := writeReg x (s.reg x + kk) s

/-- LD Vx, Vy (R77). -/
def execLdReg (x y : Reg) (s : State) : Answer := writeReg x (s.reg y) s

/-- OR Vx, Vy (R78). -/
def execOr (x y : Reg) (s : State) : Answer := writeReg x (s.reg x ||| s.reg y) s

/-- AND Vx, Vy (R79). -/
def execAnd (x y : Reg) (s : State) : Answer := writeReg x (s.reg x &&& s.reg y) s

/-- XOR Vx, Vy (R80). -/
def execXor (x y : Reg) (s : State) : Answer := writeReg x (s.reg x ^^^ s.reg y) s

/-- ADD Vx, Vy (R81). -/
def execAddReg (x y : Reg) (s : State) : Answer :=
  writeFlagAndReg (carryFlag (s.reg x) (s.reg y)) x (s.reg x + s.reg y) s

/-- SUB Vx, Vy (R82). -/
def execSub (x y : Reg) (s : State) : Answer :=
  writeFlagAndReg (notBorrowFlag (s.reg x) (s.reg y)) x (s.reg x - s.reg y) s

/-- SHR Vx (R84): `V[x]` itself is shifted. -/
def execShr (x : Reg) (s : State) : Answer := writeFlagAndReg (shrFlag (s.reg x)) x (s.reg x >>> 1) s

/-- SUBN Vx, Vy (R83). -/
def execSubn (x y : Reg) (s : State) : Answer :=
  writeFlagAndReg (notBorrowFlag (s.reg y) (s.reg x)) x (s.reg y - s.reg x) s

/-- SHL Vx (R85): `V[x]` itself is shifted. -/
def execShl (x : Reg) (s : State) : Answer := writeFlagAndReg (shlFlag (s.reg x)) x (s.reg x <<< 1) s

/-- RND Vx, kk (R86) with the host's random byte given. One more byte has then been read (log entry 4). -/
def execRndWith (rnd : Byte) (x : Reg) (kk : Byte) (s : State) : Answer :=
  writeReg x (rnd &&& kk) { s with rndCount := s.rndCount + 1 }

/-- RND Vx, kk (R86): the random byte is the free value `Config.hostRnd` (log entry 4). -/
def execRnd (x : Reg) (kk : Byte) (s : State) : Answer := execRndWith (Config.hostRnd s.rndCount) x kk s

end Sys2Proof.Machine
end

