-- ==== Sys2Proof/Machine/ControlFlow.lean ====
section
/-!
DEFINITION. Control transfer (spec/40_control_flow.md R63 to R70).
-/
namespace Sys2Proof.Machine

/-- RET (R63): `pc <- stack[sp] + 2` after `sp <- sp - 1`; StackUnderflow where `sp = 0`. -/
def execRet (s : State) : Answer :=
  match s.pop with
  | some (w, t) => .next (t.setPc (w + 2))
  | none => raise .stackUnderflow s

/-- JP nnn (R64): no default advance. -/
def execJp (nnn : BitVec 12) (s : State) : Answer := .next (s.setPc (addressOf nnn))

/-- CALL nnn (R65): the address of this CALL is pushed; StackOverflow where `sp = 16`. -/
def execCall (nnn : BitVec 12) (s : State) : Answer :=
  match s.push s.pc with
  | some t => .next (t.setPc (addressOf nnn))
  | none => raise .stackOverflow s

/-- SE Vx, kk (R66). -/
def execSeImm (x : Reg) (kk : Byte) (s : State) : Answer := .next (s.skipIf (s.reg x == kk))

/-- SNE Vx, kk (R67). -/
def execSneImm (x : Reg) (kk : Byte) (s : State) : Answer := .next (s.skipIf (s.reg x != kk))

/-- SE Vx, Vy (R68). -/
def execSeReg (x y : Reg) (s : State) : Answer := .next (s.skipIf (s.reg x == s.reg y))

/-- SNE Vx, Vy (R69). -/
def execSneReg (x y : Reg) (s : State) : Answer := .next (s.skipIf (s.reg x != s.reg y))

/-- JP V0, nnn (R70): the sum is not reduced modulo 4096. -/
def execJpV0 (nnn : BitVec 12) (s : State) : Answer :=
  .next (s.setPc (addressOf nnn + (s.reg 0).zeroExtend 16))

end Sys2Proof.Machine
end

