-- ==== Sys2Proof/Machine/Framebuffer.lean ====
section
/-!
DEFINITION. The framebuffer and the sprite scan (spec/43_display.md R94 to R97): the pixels a sprite lights, where they
fall under `DRAW_EDGE`, and the XOR draw with its collision detector.
-/
namespace Sys2Proof.Machine

/-- A cell of the grid: row 0..31, column 0..63 (R24). -/
abbrev Pixel := Fin 32 × Fin 64

/-- `fb[r][c]`. -/
def Framebuffer.get (f : Framebuffer) (p : Pixel) : Bool := (f[p.1])[p.2]

/-- `fb[r][c] <- fb[r][c] ^ 1`. -/
def Framebuffer.flip (f : Framebuffer) (p : Pixel) : Framebuffer :=
  f.set p.1 ((f[p.1]).set p.2 (!(f[p.1])[p.2]))

/-- Every cell 0 (R94). -/
def Framebuffer.blank : Framebuffer := Vector.replicate 32 (Vector.replicate 64 false)

/-- The coordinates (row, column), not yet placed, of the set bits of one sprite row drawn at row `y` from column `x`,
bit 7 first: bit `7 - c` is column `x + c` (R95). -/
def rowPixels (row : Byte) (y x : Nat) : List (Nat × Nat) :=
  ((List.range 8).filter fun c => row.getLsbD (7 - c)).map fun c => (y, x + c)

/-- The coordinates of the set bits of a sprite, rows top to bottom (R95). -/
def spritePixels : List Byte → Nat → Nat → List (Nat × Nat)
  | [], _, _ => []
  | row :: rows, y, x => rowPixels row y x ++ spritePixels rows (y + 1) x

/-- The coordinates fall outside the 64 x 32 grid (R97). -/
def offGrid (q : Nat × Nat) : Bool := decide (31 < q.1) || decide (63 < q.2)

/-- `place` (R97): the cell a coordinate pair falls on, `none` where it is not inside. Under `Fault` a coordinate outside
the grid has been refused before the scan, so that no pixel is placed there. -/
def place (e : DrawEdge) (q : Nat × Nat) : Option Pixel :=
  match e with
  | .wrap => some (Fin.ofNat 32 q.1, Fin.ofNat 64 q.2)
  | .clip => if offGrid q then none else some (Fin.ofNat 32 q.1, Fin.ofNat 64 q.2)
  | .fault => if offGrid q then none else some (Fin.ofNat 32 q.1, Fin.ofNat 64 q.2)

/-- The scan (R95, R96): each cell in turn is flipped, and the collision flag is promoted where the cell was on. -/
def xorScan : List Pixel → Framebuffer → Bool → Framebuffer × Bool
  | [], f, hit => (f, hit)
  | p :: ps, f, hit => xorScan ps (f.flip p) (hit || f.get p)

end Sys2Proof.Machine
end

