-- ==== Sys2Proof/Machine/Display.lean ====
section
/-!
DEFINITION. Clear and draw (spec/43_display.md R94 to R97).
-/
namespace Sys2Proof.Machine

/-- CLS (R94). -/
def execCls (s : State) : Answer := .next { s with fb := Framebuffer.blank, fbChanged := true }.advance

/-- The set sprite bits of DRW as coordinates: `N` rows from `I`, drawn from (`V[y]`, `V[x]`), all sampled before VF is
written (R95). -/
def State.drawnPixels (s : State) (x y : Reg) (n : Fin 16) : List (Nat × Nat) :=
  spritePixels (s.readBytes (s.dataAddress 0) n.val) (s.reg y).toNat (s.reg x).toNat

/-- The framebuffer and the collision flag after the scan (R95, R96). -/
def State.drawScan (s : State) (x y : Reg) (n : Fin 16) : Framebuffer × Bool :=
  xorScan ((s.drawnPixels x y n).filterMap (place s.params.drawEdge)) s.fb false

/-- DRW Vx, Vy, n (R95): the checks in the order of R111, then the draw. -/
def execDrw (x y : Reg) (n : Fin 16) (s : State) : Answer :=
  if inRange (s.dataAddress 0) n.val then
    if s.params.drawEdge = .fault ∧ (s.drawnPixels x y n).any offGrid then raise .framebufferOutOfBounds s
    else
      .next ({ s with fb := (s.drawScan x y n).1, fbChanged := true }.setReg vF
        (flagByte (s.drawScan x y n).2)).advance
  else raise .addressOutOfRange s

end Sys2Proof.Machine
end

