-- ==== Sys2Proof/Machine/IndexMemory.lean ====
section
/-!
DEFINITION. The index register, the font address, BCD and the block transfers (spec/42_index_memory.md R88 to R93).
-/
namespace Sys2Proof.Machine

/-- LD I, nnn (R88). -/
def execLdI (nnn : BitVec 12) (s : State) : Answer := .next (s.setI (addressOf nnn)).advance

/-- ADD I, Vx (R89): modulo 65536, no flag. -/
def execAddIVx (x : Reg) (s : State) : Answer := .next (s.setI (s.i + (s.reg x).zeroExtend 16)).advance

/-- LD F, Vx (R90). -/
def execLdFVx (x : Reg) (s : State) : Answer := .next (s.setI (glyphAddress (s.reg x))).advance

/-- LD B, Vx (R91). -/
def execLdBVx (x : Reg) (s : State) : Answer :=
  if inRange (s.dataAddress 0) 3 then .next (s.writeBytes (s.dataAddress 0) (bcdDigits (s.reg x))).advance
  else raise .addressOutOfRange s

/-- LD [I], Vx (R92). -/
def execLdMemVx (x : Reg) (s : State) : Answer :=
  if inRange (s.dataAddress 0) (x.val + 1) then
    .next ((s.writeBytes (s.dataAddress 0) (s.regsUpTo x)).setI (s.indexPast x)).advance
  else raise .addressOutOfRange s

/-- LD Vx, [I] (R93). -/
def execLdVxMem (x : Reg) (s : State) : Answer :=
  if inRange (s.dataAddress 0) (x.val + 1) then
    .next ({ s with v := s.regsFromMem x }.setI (s.indexPast x)).advance
  else raise .addressOutOfRange s

end Sys2Proof.Machine
end

