-- ==== Sys2Proof/Machine/KeysTimers.lean ====
section
/-!
DEFINITION. Key and timer instructions (spec/44_timers_keys.md R99 to R104).
-/
namespace Sys2Proof.Machine

/-- SKP Vx (R99). -/
def execSkp (x : Reg) (s : State) : Answer :=
  match keyIndex (s.reg x) with
  | some k => .next (s.skipIf (s.keyDown k))
  | none => raise .keyIndexOutOfRange s

/-- SKNP Vx (R100). -/
def execSknp (x : Reg) (s : State) : Answer :=
  match keyIndex (s.reg x) with
  | some k => .next (s.skipIf (!s.keyDown k))
  | none => raise .keyIndexOutOfRange s

/-- LD Vx, DT (R101). -/
def execLdVxDt (x : Reg) (s : State) : Answer := .next (s.setReg x s.dt).advance

/-- LD Vx, K (R102): with no key down nothing changes, so the next STEP executes it again. -/
def execLdVxK (x : Reg) (s : State) : Answer :=
  match s.lastKeyDown with
  | some k => .next ({ s with keyCaptured := true }.setReg x (BitVec.ofNat 8 k.val)).advance
  | none => .next s

/-- LD DT, Vx (R103). -/
def execLdDtVx (x : Reg) (s : State) : Answer := .next { s with dt := s.reg x }.advance

/-- LD ST, Vx (R104). -/
def execLdStVx (x : Reg) (s : State) : Answer := .next { s with st := s.reg x }.advance

end Sys2Proof.Machine
end

