-- ==== Sys2Proof/WellFormed.lean ====
section
/-!
DEFINITION. Well-formedness of instruction words: the opcode table of spec/opcode_table.json as data, the legal words
(spec/30_encoding.md R58), and the words an assembler writes (R57, R61: ignored bits 0). An `Instr` itself has no
ill-formed term (Sys2Proof/Syntax.lean), so these are the checks there are.
-/
namespace Sys2Proof

/-- One row of spec/opcode_table.json: a word `w` is this operation iff `w &&& mask = pattern`. -/
structure OpcodeRow where
  mnemonic : String
  mask     : Word
  pattern  : Word
  deriving DecidableEq, Repr

/-- The word matches the row. -/
def OpcodeRow.hits (r : OpcodeRow) (w : Word) : Bool := w &&& r.mask == r.pattern

/-- The opcode table, in the table's order. -/
def opcodeTable : List OpcodeRow :=
  [
   ⟨"CLS", 0xF0FF, 0x00E0⟩,
   ⟨"RET", 0xF0FF, 0x00EE⟩,
   ⟨"JP", 0xF000, 0x1000⟩,
   ⟨"CALL", 0xF000, 0x2000⟩,
   ⟨"SE_IMM", 0xF000, 0x3000⟩,
   ⟨"SNE_IMM", 0xF000, 0x4000⟩,
   ⟨"SE_REG", 0xF000, 0x5000⟩,
   ⟨"LD_IMM", 0xF000, 0x6000⟩,
   ⟨"ADD_IMM", 0xF000, 0x7000⟩] ++
  [
   ⟨"LD_REG", 0xF00F, 0x8000⟩,
   ⟨"OR", 0xF00F, 0x8001⟩,
   ⟨"AND", 0xF00F, 0x8002⟩,
   ⟨"XOR", 0xF00F, 0x8003⟩,
   ⟨"ADD_REG", 0xF00F, 0x8004⟩,
   ⟨"SUB", 0xF00F, 0x8005⟩,
   ⟨"SHR", 0xF00F, 0x8006⟩,
   ⟨"SUBN", 0xF00F, 0x8007⟩,
   ⟨"SHL", 0xF00F, 0x800E⟩] ++
  [
   ⟨"SNE_REG", 0xF000, 0x9000⟩,
   ⟨"LD_I", 0xF000, 0xA000⟩,
   ⟨"JP_V0", 0xF000, 0xB000⟩,
   ⟨"RND", 0xF000, 0xC000⟩,
   ⟨"DRW", 0xF000, 0xD000⟩,
   ⟨"SKP", 0xF0FF, 0xE09E⟩,
   ⟨"SKNP", 0xF0FF, 0xE0A1⟩,
   ⟨"LD_VX_DT", 0xF0FF, 0xF007⟩,
   ⟨"LD_VX_K", 0xF0FF, 0xF00A⟩] ++
  [
   ⟨"LD_DT_VX", 0xF0FF, 0xF015⟩,
   ⟨"LD_ST_VX", 0xF0FF, 0xF018⟩,
   ⟨"ADD_I_VX", 0xF0FF, 0xF01E⟩,
   ⟨"LD_F_VX", 0xF0FF, 0xF029⟩,
   ⟨"LD_B_VX", 0xF0FF, 0xF033⟩,
   ⟨"LD_MEM_VX", 0xF0FF, 0xF055⟩,
   ⟨"LD_VX_MEM", 0xF0FF, 0xF065⟩]

/-- The bits a row's operation ignores (R57), which an assembler writes as 0 (R61): bits 11..8 of CLS and RET, bits 3..0
of SE_REG and SNE_REG, bits 7..4 of SHR and SHL. -/
def ignoredBits (mnemonic : String) : Word :=
  if mnemonic = "CLS" ∨ mnemonic = "RET" then 0x0F00
  else if mnemonic = "SE_REG" ∨ mnemonic = "SNE_REG" then 0x000F
  else if mnemonic = "SHR" ∨ mnemonic = "SHL" then 0x00F0
  else 0

/-- The word is one of the 34 operations (R58 counts the words that are not). -/
def legalWord (w : Word) : Bool := opcodeTable.any (·.hits w)

/-- The word is one an assembler writes: legal, with every ignored bit 0 (R61; 92_eei_decisions.md D27). -/
def wellFormedWord (w : Word) : Bool :=
  opcodeTable.any fun r => r.hits w && w &&& ignoredBits r.mnemonic == 0

end Sys2Proof
end

