-- ==== Sys2Proof/Decode.lean ====
section
/-!
DEFINITION. The decoder (spec/30_encoding.md R46 to R58), total on all 65536 words, and after it the encoder, written
from the same formats (R48, R49, R61).
-/
namespace Sys2Proof

/-- The high nibble, which gives the class (R50). -/
def nibble1 (w : Word) : BitVec 4 := w.extractLsb' 12 4

/-- The field X, bits 11..8 (R49). -/
def fieldX (w : Word) : Reg := (w.extractLsb' 8 4).toFin

/-- The field Y, bits 7..4 (R49). -/
def fieldY (w : Word) : Reg := (w.extractLsb' 4 4).toFin

/-- The field N, bits 3..0 (R49). -/
def fieldN (w : Word) : Fin 16 := (w.extractLsb' 0 4).toFin

/-- The field KK, bits 7..0 (R49), which is also the low-byte sub-code (R50). -/
def fieldKK (w : Word) : Byte := w.extractLsb' 0 8

/-- The field NNN, bits 11..0 (R49). -/
def fieldNNN (w : Word) : BitVec 12 := w.extractLsb' 0 12

/-- What decoding a word gives (R47): one operation with its operands, or `Unknown`. -/
inductive Decoded where
  | op (i : Instr)
  | unknown
  deriving DecidableEq, Repr

/-- Class 0x0, by the low byte (R51). -/
def decodeClass0 (w : Word) : Decoded :=
  match fieldKK w with
  | 0xE0#8 => .op .cls
  | 0xEE#8 => .op .ret
  | _ => .unknown

/-- Class 0x8, by the low nibble (R53). -/
def decodeClass8 (w : Word) : Decoded :=
  match fieldN w with
  | 0x0 => .op (.ldReg (fieldX w) (fieldY w))
  | 0x1 => .op (.or (fieldX w) (fieldY w))
  | 0x2 => .op (.and (fieldX w) (fieldY w))
  | 0x3 => .op (.xor (fieldX w) (fieldY w))
  | 0x4 => .op (.addReg (fieldX w) (fieldY w))
  | 0x5 => .op (.sub (fieldX w) (fieldY w))
  | 0x6 => .op (.shr (fieldX w))
  | 0x7 => .op (.subn (fieldX w) (fieldY w))
  | 0xE => .op (.shl (fieldX w))
  | _ => .unknown

/-- Class 0xE, by the low byte (R55). -/
def decodeClassE (w : Word) : Decoded :=
  match fieldKK w with
  | 0x9E#8 => .op (.skp (fieldX w))
  | 0xA1#8 => .op (.sknp (fieldX w))
  | _ => .unknown

/-- Class 0xF, by the low byte (R56). -/
def decodeClassF (w : Word) : Decoded :=
  match fieldKK w with
  | 0x07#8 => .op (.ldVxDt (fieldX w))
  | 0x0A#8 => .op (.ldVxK (fieldX w))
  | 0x15#8 => .op (.ldDtVx (fieldX w))
  | 0x18#8 => .op (.ldStVx (fieldX w))
  | 0x1E#8 => .op (.addIVx (fieldX w))
  | 0x29#8 => .op (.ldFVx (fieldX w))
  | 0x33#8 => .op (.ldBVx (fieldX w))
  | 0x55#8 => .op (.ldMemVx (fieldX w))
  | 0x65#8 => .op (.ldVxMem (fieldX w))
  | _ => .unknown

/-- `decode` (R47, R50 to R56): a total function of the word alone. The classes 0x1..0x7 and 0x9..0xD are decided by the
high nibble (R50), so their ignored bits take any value (R57). The last arm is class 0xF, the one nibble left. -/
def decode (w : Word) : Decoded :=
  match nibble1 w with
  | 0x0#4 => decodeClass0 w
  | 0x1#4 => .op (.jp (fieldNNN w))
  | 0x2#4 => .op (.call (fieldNNN w))
  | 0x3#4 => .op (.seImm (fieldX w) (fieldKK w))
  | 0x4#4 => .op (.sneImm (fieldX w) (fieldKK w))
  | 0x5#4 => .op (.seReg (fieldX w) (fieldY w))
  | 0x6#4 => .op (.ldImm (fieldX w) (fieldKK w))
  | 0x7#4 => .op (.addImm (fieldX w) (fieldKK w))
  | 0x8#4 => decodeClass8 w
  | 0x9#4 => .op (.sneReg (fieldX w) (fieldY w))
  | 0xA#4 => .op (.ldI (fieldNNN w))
  | 0xB#4 => .op (.jpV0 (fieldNNN w))
  | 0xC#4 => .op (.rnd (fieldX w) (fieldKK w))
  | 0xD#4 => .op (.drw (fieldX w) (fieldY w) (fieldN w))
  | 0xE#4 => decodeClassE w
  | _ => decodeClassF w

/-- A 16-bit word from two consecutive bytes, the first in bits 15..8: big-endian (R39). -/
def wordOfBytes (hi lo : Byte) : Word := hi ++ lo

/-- Decoding the head of a list of bytes: the instruction and the bytes after it, or `none` where fewer than two bytes
are left or the word is `Unknown`. -/
def decodeBytes : List Byte → Option (Instr × List Byte)
  | hi :: lo :: rest =>
    match decode (wordOfBytes hi lo) with
    | .op i => some (i, rest)
    | .unknown => none
  | _ => none

/-- The two bytes of a word as memory holds them, the high byte first (R39). -/
def bytesOfWord (w : Word) : List Byte := [w.extractLsb' 8 8, w.extractLsb' 0 8]

/-- The host's question: the instruction that the decoder reads from the table word `w` of `nbits` bits. An instruction
is one 16-bit word (R45), so more than 16 bits are none. -/
def decodeTableWord (nbits w : Nat) : Option Instr :=
  if nbits ≤ 16 then (decodeBytes (bytesOfWord (BitVec.ofNat 16 w))).map Prod.fst else none

/-- Format A (R48): class, NNN. -/
def encA (c : BitVec 4) (nnn : BitVec 12) : Word := c ++ nnn

/-- Formats O, X and XKK (R48): class, X, then KK or the low-byte sub-code. -/
def encXKK (c : BitVec 4) (x : Reg) (kk : Byte) : Word := (c ++ (BitVec.ofFin x : BitVec 4)) ++ kk

/-- Formats XY and XYN (R48): class, X, Y, then N or the low-nibble sub-code. -/
def encXYN (c : BitVec 4) (x y : Reg) (n : Fin 16) : Word :=
  ((c ++ (BitVec.ofFin x : BitVec 4)) ++ (BitVec.ofFin y : BitVec 4)) ++ (BitVec.ofFin n : BitVec 4)

/-- The word of an instruction, ignored bits 0 (R61). -/
def encode : Instr → Word
  | .cls => encXKK 0x0 0 0xE0
  | .ret => encXKK 0x0 0 0xEE
  | .jp nnn => encA 0x1 nnn
  | .call nnn => encA 0x2 nnn
  | .seImm x kk => encXKK 0x3 x kk
  | .sneImm x kk => encXKK 0x4 x kk
  | .seReg x y => encXYN 0x5 x y 0
  | .ldImm x kk => encXKK 0x6 x kk
  | .addImm x kk => encXKK 0x7 x kk
  | .ldReg x y => encXYN 0x8 x y 0x0
  | .or x y => encXYN 0x8 x y 0x1
  | .and x y => encXYN 0x8 x y 0x2
  | .xor x y => encXYN 0x8 x y 0x3
  | .addReg x y => encXYN 0x8 x y 0x4
  | .sub x y => encXYN 0x8 x y 0x5
  | .shr x => encXYN 0x8 x 0 0x6
  | .subn x y => encXYN 0x8 x y 0x7
  | .shl x => encXYN 0x8 x 0 0xE
  | .sneReg x y => encXYN 0x9 x y 0
  | .ldI nnn => encA 0xA nnn
  | .jpV0 nnn => encA 0xB nnn
  | .rnd x kk => encXKK 0xC x kk
  | .drw x y n => encXYN 0xD x y n
  | .skp x => encXKK 0xE x 0x9E
  | .sknp x => encXKK 0xE x 0xA1
  | .ldVxDt x => encXKK 0xF x 0x07
  | .ldVxK x => encXKK 0xF x 0x0A
  | .ldDtVx x => encXKK 0xF x 0x15
  | .ldStVx x => encXKK 0xF x 0x18
  | .addIVx x => encXKK 0xF x 0x1E
  | .ldFVx x => encXKK 0xF x 0x29
  | .ldBVx x => encXKK 0xF x 0x33
  | .ldMemVx x => encXKK 0xF x 0x55
  | .ldVxMem x => encXKK 0xF x 0x65

end Sys2Proof
end

