-- ==== Sys2Proof/Machine/Engine.lean ====
section
/-!
DEFINITION. The engine cycle (spec/30_encoding.md R46): halt check, fetch, decode, execute; and what a STEP reports
(spec/60_exceptions.md R119).
-/
namespace Sys2Proof.Machine

/-- The fetch (R39, R46): the big-endian word at `pc` and `pc + 1`; `none` where it would leave memory. -/
def State.fetch (s : State) : Option Word :=
  if s.pc.toNat + 1 ≤ 0xFFF then some (wordOfBytes (s.readByte s.pc.toNat) (s.readByte (s.pc.toNat + 1)))
  else none

/-- One STEP (R46) over a way `ex` of executing an instruction: while halted nothing changes (R114); the checks come in
the order of R111; `ir` keeps the fetched word even if the step faults after the fetch. -/
def engine (ex : Instr → State → Answer) (s : State) : Answer :=
  if s.execEnabled then
    match s.fetch with
    | none => raise .addressOutOfRange s
    | some w =>
      match decode w with
      | .unknown => raise .unknownOpcode (s.setIr w)
      | .op i => ex i (s.setIr w)
  else .next s

/-- What a STEP reports to the host (R119). -/
inductive StepResult where
  | executed
  | keyWait
  | halted
  | fault (f : Fault)
  deriving DecidableEq, Repr

/-- The instruction is a key wait that finds no key down (R46: "KeyWait if op = LD_VX_K and no key was down"). -/
def waitsForKey (i : Instr) (s : State) : Bool :=
  match i with
  | .ldVxK _ => s.lastKeyDown.isNone
  | _ => false

/-- The STEP result (R46, R119) of the step that leads from `s` to `t`: a step that halts the core is the fault it
latched (R112). -/
def stepResult (s t : State) : StepResult :=
  if s.execEnabled then
    match t.execEnabled, t.lastError with
    | false, some f => .fault f
    | _, _ =>
      match s.fetch.map decode with
      | some (.op i) => if waitsForKey i s then .keyWait else .executed
      | _ => .executed
  else .halted

/-- The bytes of a word stored at `pc`, where the engine fetches its next instruction (R39, R46). -/
def State.placeWord (s : State) (w : Word) : State := s.writeBytes s.pc.toNat (bytesOfWord w)

end Sys2Proof.Machine
end

