-- ==== Sys2Proof/Machine/Step.lean ====
section
/-!
DEFINITION. The step of the machine: one STEP of spec/30_encoding.md R46, the random byte being the free value
(log entry 4); and the host's placing of a word where the step fetches it (log entry 5).
-/
namespace Sys2Proof.Machine

/-- One STEP (R46). -/
def step (s : State) : Host.Outcome State Fault Refusal := engine exec s

/-- `s` with the 16-bit table word `w` stored where `step` fetches its next instruction; every instruction is one word
(R45), so `nbits` adds nothing. -/
def State.withFetchWord (s : State) (_nbits w : Nat) : State := s.placeWord (BitVec.ofNat 16 w)

end Sys2Proof.Machine
end

