-- ==== Sys2Proof/Machine/Transactions.lean ====
section
/-!
DEFINITION. The host's transactions and read ports (spec/60_exceptions.md R118 to R125, spec/70_reset_and_hazards.md
R132 to R134). `step` above is the STEP transaction with the free random byte; here STEP takes the byte as its input.
-/
namespace Sys2Proof.Machine

/-- The transactions of the block (R118). -/
inductive Transaction where
  /-- STEP with the host's random byte (R46). -/
  | step (rnd : Byte)
  /-- TICK (R125). -/
  | tick
  /-- KEY(k, down) (R121). -/
  | key (k : Key) (down : Bool)
  /-- FB_ACK (R122). -/
  | fbAck
  /-- KEYCAP_ACK (R122). -/
  | keycapAck
  /-- PAUSE(p) (R122). -/
  | pause (p : Bool)
  /-- LOAD of an image, `none` where the host has no bytes to give (R132). -/
  | load (src : Option (List Byte))
  /-- HARD_RESET (R133). -/
  | hardReset
  /-- SOFT_RESET (R134). -/
  | softReset
  deriving DecidableEq, Repr

/-- Executing an instruction with the host's random byte given (R46): only RND uses it. -/
def execWith (rnd : Byte) (i : Instr) (s : State) : Answer :=
  match i with
  | .rnd x kk => execRndWith rnd x kk s
  | _ => exec i s

/-- STEP(rnd) (R46). -/
def stepWith (rnd : Byte) (s : State) : Answer := engine (execWith rnd) s

/-- One countdown, clamped at 0 (R125). -/
def countDown (t : Byte) : Byte := if t = 0 then 0 else t - 1

/-- TICK (R125): it acts whatever `exec_enabled` and `paused` are. -/
def State.tick (s : State) : State := { s with dt := countDown s.dt, st := countDown s.st }

/-- KEY(k, down) (R121). -/
def State.setKey (s : State) (k : Key) (down : Bool) : State := { s with key := s.key.set k down }

/-- LOAD's result (R132), with the codes 16 and 17 for its failures (R110). -/
inductive LoadResult where
  | ok
  | imageTooLarge
  | sourceUnavailable
  deriving DecidableEq, Repr

/-- What LOAD answers (R132). -/
def loadResult : Option (List Byte) → LoadResult
  | none => .sourceUnavailable
  | some image => if image.length > imageMax then .imageTooLarge else .ok

/-- LOAD (R132): the image is copied to 0x200 onward; a failed load changes nothing. -/
def State.load (s : State) (src : Option (List Byte)) : State :=
  match src with
  | none => s
  | some image => if image.length > imageMax then s else s.writeBytes loadAddr image

/-- HARD_RESET (R133). The parameters and the count of random bytes are not the machine's state and stay. -/
def State.hardReset (s : State) : State := { State.reset with params := s.params, rndCount := s.rndCount }

/-- SOFT_RESET (R134): as HARD_RESET, but memory from 0x200 keeps its contents; below it every cell returns to its reset
contents, the font at 0..79 and 0 above. -/
def State.softReset (s : State) : State :=
  { s.hardReset with mem := s.mem.filter fun c => decide (loadAddr ≤ c.1) }

/-- One transaction (R118). -/
def transact (t : Transaction) (s : State) : Answer :=
  match t with
  | .step rnd => stepWith rnd s
  | .tick => .next s.tick
  | .key k down => .next (s.setKey k down)
  | .fbAck => .next { s with fbChanged := false }
  | .keycapAck => .next { s with keyCaptured := false }
  | .pause p => .next { s with paused := p }
  | .load src => .next (s.load src)
  | .hardReset => .next s.hardReset
  | .softReset => .next s.softReset

/-- What a transaction answers to the host (R118, last column). -/
inductive Response where
  | nothing
  | stepped (r : StepResult)
  | loaded (r : LoadResult)
  deriving DecidableEq, Repr

/-- The result of a transaction issued in `s` (R118, R119, R132). -/
def response (t : Transaction) (s : State) : Response :=
  match t with
  | .step rnd =>
    match stepWith rnd s with
    | .next s' => .stepped (stepResult s s')
    | _ => .nothing
  | .load src => .loaded (loadResult src)
  | .tick => .nothing
  | .key _ _ => .nothing
  | .fbAck => .nothing
  | .keycapAck => .nothing
  | .pause _ => .nothing
  | .hardReset => .nothing
  | .softReset => .nothing

/-- A finite sequence of transactions (R137), stopping where one answers no next state (none does). -/
def transactAll : List Transaction → State → Answer
  | [], s => .next s
  | t :: ts, s =>
    match transact t s with
    | .next s' => transactAll ts s'
    | .fault f => .fault f
    | .refused r => .refused r

/-- The code of `last_error` (R110). -/
def errorCode : Option Fault → Nat
  | none => 0
  | some .unknownOpcode => 1
  | some .stackOverflow => 2
  | some .stackUnderflow => 3
  | some .framebufferOutOfBounds => 4
  | some .addressOutOfRange => 5
  | some .keyIndexOutOfRange => 6

/-- The code of LOAD's result: R110 numbers its failures, 16 and 17. DESIGN CHOICE (log entry 10): R110 gives `Ok` no
number; the model gives it 0, the number of `None`. -/
def loadCode : LoadResult → Nat
  | .ok => 0
  | .imageTooLarge => 16
  | .sourceUnavailable => 17

/-- The status read port (R123). -/
structure Status where
  execEnabled : Bool
  fbChanged   : Bool
  paused      : Bool
  keyCaptured : Bool
  lastError   : Option Fault
  dt          : Byte
  st          : Byte
  deriving DecidableEq, Repr

/-- Reading the status port changes nothing (R118, R123). -/
def State.status (s : State) : Status :=
  { execEnabled := s.execEnabled, fbChanged := s.fbChanged, paused := s.paused, keyCaptured := s.keyCaptured,
    lastError := s.lastError, dt := s.dt, st := s.st }

/-- The framebuffer read port (R120): all 2048 cells, row by row. -/
def State.framePort (s : State) : List (List Bool) := (s.fb.map Vector.toList).toList

end Sys2Proof.Machine
end

