-- ==== Sys2Proof/Safety.lean ====
section
/-!
DEFINITION. What a good state is, in the terms the claims use: the machine's invariant, a running core, the frame of a
claim (which registers and which bytes are kept), and what a sprite covers, said from the rules and not from the meanings.
-/
namespace Sys2Proof.Machine

/-- The memory is in its canonical form. -/
abbrev State.MemWf (s : State) : Prop := Memory.wf s.params.font s.mem

/-- The core is halted exactly where it has latched an error (R28, R30, R112). -/
abbrev State.HaltMatchesError (s : State) : Prop := s.execEnabled = true ↔ s.lastError = none

/-- R20: `pc` stays at most 0x10FE, and every occupied slot holds the address of an executed CALL, at most 0xFFE. -/
abbrev State.PcBounded (s : State) : Prop :=
  s.pc.toNat ≤ 0x10FE ∧ ∀ k : Fin 16, k.val < s.sp.val → (s.stack[k]).toNat ≤ 0xFFE

/-- The machine's invariant: it holds after reset and every transaction keeps it. -/
structure State.Inv (s : State) : Prop where
  memWf : s.MemWf
  halt  : s.HaltMatchesError
  pc    : s.PcBounded

/-- The core is running: a STEP fetches (R28). -/
abbrev State.Running (s : State) : Prop := s.execEnabled = true

/-- Every register outside the list reads in `t` as in `s`. -/
abbrev State.KeepsRegsBut (s t : State) (rs : List Reg) : Prop := ∀ k : Reg, k ∉ rs → t.reg k = s.reg k

/-- Every byte outside the `n` bytes from `a` reads in `t` as in `s`. -/
abbrev State.KeepsBytesBut (s t : State) (a n : Nat) : Prop :=
  ∀ b : Nat, b < a ∨ a + n ≤ b → t.readByte b = s.readByte b

/-- The `n` bytes from `a` are addresses of the space (R38): none is above 0xFFF. -/
abbrev InSpace (a n : Nat) : Prop := ∀ k : Nat, k < n → a + k ≤ 0xFFF

/-- The registers an instruction may write: its destination, and VF where R15 and R16 name it; FX65 writes V0..VX. -/
def regsWritten : Instr → List Reg
  | .cls => []
  | .ret => []
  | .jp _ => []
  | .call _ => []
  | .seImm _ _ => []
  | .sneImm _ _ => []
  | .seReg _ _ => []
  | .ldImm x _ => [x]
  | .addImm x _ => [x]
  | .ldReg x _ => [x]
  | .or x _ => [x]
  | .and x _ => [x]
  | .xor x _ => [x]
  | .addReg x _ => [x, vF]
  | .sub x _ => [x, vF]
  | .shr x => [x, vF]
  | .subn x _ => [x, vF]
  | .shl x => [x, vF]
  | .sneReg _ _ => []
  | .ldI _ => []
  | .jpV0 _ => []
  | .rnd x _ => [x]
  | .drw _ _ _ => [vF]
  | .skp _ => []
  | .sknp _ => []
  | .ldVxDt x => [x]
  | .ldVxK x => [x]
  | .ldDtVx _ => []
  | .ldStVx _ => []
  | .addIVx _ => []
  | .ldFVx _ => []
  | .ldBVx _ => []
  | .ldMemVx _ => []
  | .ldVxMem x => (List.finRange 16).filter fun k => decide (k ≤ x)

/-- The bit of the sprite of DRW in its row `r` and column `c` is set: bit `7 - c` of the byte at `I + r` (R95). -/
abbrev State.SpriteBit (s : State) (n : Fin 16) (r c : Nat) : Prop :=
  r < n.val ∧ c < 8 ∧ (s.readByte (s.i.toNat + r)).getLsbD (7 - c) = true

/-- The coordinates (row, column) fall on the cell `p` under an edge policy (R97). -/
def LandsOn (e : DrawEdge) (row col : Nat) (p : Pixel) : Prop :=
  match e with
  | .wrap => p.1.val = row % 32 ∧ p.2.val = col % 64
  | .clip => p.1.val = row ∧ p.2.val = col
  | .fault => p.1.val = row ∧ p.2.val = col

/-- Some set bit of the sprite of `DRW Vx, Vy, n` lands on the cell `p` (R95, R97). -/
def State.SpriteCovers (s : State) (x y : Reg) (n : Fin 16) (p : Pixel) : Prop :=
  ∃ r c : Nat, s.SpriteBit n r c ∧
    LandsOn s.params.drawEdge ((s.reg y).toNat + r) ((s.reg x).toNat + c) p

/-- Some set bit of the sprite of `DRW Vx, Vy, n` falls outside the grid (R95, R97). -/
def State.SpriteLeavesGrid (s : State) (x y : Reg) (n : Fin 16) : Prop :=
  ∃ r c : Nat, s.SpriteBit n r c ∧ ((s.reg x).toNat + c > 63 ∨ (s.reg y).toNat + r > 31)

/-- DRW takes no fault: its sprite bytes are in memory, and under `DRAW_EDGE = Fault` no set bit leaves the grid (R95). -/
def State.DrawRuns (s : State) (x y : Reg) (n : Fin 16) : Prop :=
  InSpace s.i.toNat n.val ∧ ¬ (s.params.drawEdge = .fault ∧ s.SpriteLeavesGrid x y n)

end Sys2Proof.Machine
end

