-- ==== Sys2Proof/Certificates/Slice0/Obligations.lean ====
section
/-!
DEFINITION. The statements for the provers, from the numbered rules of spec/. `R<n>` is a rule of spec/, `D<n>` a decision
of spec/92_eei_decisions.md (the spec's own choice), `log n` an entry of notes/assumptions. A frame is written as an
equation `t = { s with f := t.f, ... }`: every field that it does not name is unchanged.
-/
open Sys2Proof Sys2Proof.Machine

/-! ## Encoding -/

/-- R47 to R56, R61: decoding the word of an instruction gives that instruction, for every operand value. The bit patterns
are the spec's (D1). -/
def Obligations.DecodeOfEncodeIsTheInstruction : Prop := ∀ i : Instr, decode (encode i) = .op i

/-- R57, R61: encoding what a word decodes to gives the word with its ignored bits 0, so that no other bit is lost. -/
def Obligations.EncodeOfDecodeClearsOnlyIgnoredBits : Prop :=
  ∀ (w : Word) (i : Instr), decode w = .op i → encode i = w &&& ~~~ ignoredBits i.mnemonic

/-- R47, R50 to R56: the decoder agrees with spec/opcode_table.json on all 65536 words: a word decodes to an operation
exactly where its row, and no other row, matches, and to `Unknown` where none does. -/
def Obligations.DecodeAgreesWithOpcodeTable : Prop :=
  ∀ w : Word, match decode w with
    | .op i => ∀ r ∈ opcodeTable, (r.hits w = true ↔ r.mnemonic = i.mnemonic)
    | .unknown => ∀ r ∈ opcodeTable, r.hits w = false

/-- R58: the illegal words are exactly those of the four lists. -/
def Obligations.IllegalWordsAreTheListedOnes : Prop :=
  ∀ w : Word, decode w = .unknown ↔
    ((w.toNat / 4096 = 0x0 ∧ w.toNat % 256 ∉ [0xE0, 0xEE]) ∨
     (w.toNat / 4096 = 0x8 ∧ w.toNat % 16 ∈ [0x8, 0x9, 0xA, 0xB, 0xC, 0xD, 0xF]) ∨
     (w.toNat / 4096 = 0xE ∧ w.toNat % 256 ∉ [0x9E, 0xA1]) ∨
     (w.toNat / 4096 = 0xF ∧ w.toNat % 256 ∉ [0x07, 0x0A, 0x15, 0x18, 0x1E, 0x29, 0x33, 0x55, 0x65]))

/-- R57: a word that differs from a legal one only in its ignored bits decodes to the same operation. -/
def Obligations.IgnoredBitsChangeNothing : Prop :=
  ∀ (w m : Word) (i : Instr), decode w = .op i → decode (w ^^^ (m &&& ignoredBits i.mnemonic)) = .op i

/-- Words of the spec (the source's examples in R51 to R53 and the tables of 95_test_vectors.md) decode as it says. -/
def Obligations.SpecWordsDecodeAsStated : Prop :=
  decode 0x00E0 = .op .cls ∧ decode 0x600A = .op (.ldImm 0 10) ∧ decode 0x6105 = .op (.ldImm 1 5) ∧
  decode 0x8014 = .op (.addReg 0 1) ∧ decode 0x0000 = .unknown ∧ decode 0x01E0 = .op .cls ∧
  decode 0x5121 = .op (.seReg 1 2) ∧ decode 0x912E = .op (.sneReg 1 2) ∧ decode 0x2300 = .op (.call 0x300) ∧
  decode 0xD015 = .op (.drw 0 1 5) ∧ decode 0xE29E = .op (.skp 2) ∧ decode 0xF255 = .op (.ldMemVx 2) ∧
  decode 0x800F = .unknown ∧ decode 0xF0FF = .unknown

/-! ## The engine -/

/-- R39, R46: where the core runs and the bytes at `pc` and `pc + 1`, high byte first, decode to an instruction, the step
is that instruction's meaning in the state whose `ir` holds the word; the engine adds nothing else. -/
def Obligations.StepRunsTheDecodedInstruction : Prop :=
  ∀ (s : State) (i : Instr), s.Running → InSpace s.pc.toNat 2 →
    decode (s.readByte s.pc.toNat ++ s.readByte (s.pc.toNat + 1)) = .op i →
    step s = exec i { s with ir := s.readByte s.pc.toNat ++ s.readByte (s.pc.toNat + 1) }

/-- R46, R112: a fetch that would leave memory faults with `ir` unchanged (D4), and a word that is no operation faults with
`ir` holding it; nothing else changes but the latched code and the halt (D11), and the model answers this state as the
next one (log 1, DEDUCED). -/
def Obligations.EngineFaultsAreTaken : Prop :=
  ∀ s : State, s.Running →
    (¬ InSpace s.pc.toNat 2 →
      step s = .next { s with lastError := some .addressOutOfRange, execEnabled := false }) ∧
    (InSpace s.pc.toNat 2 → decode (s.readByte s.pc.toNat ++ s.readByte (s.pc.toNat + 1)) = .unknown →
      step s = .next { s with ir := s.readByte s.pc.toNat ++ s.readByte (s.pc.toNat + 1),
                              lastError := some .unknownOpcode, execEnabled := false })

/-- R114 (D13): a halted core stays as it is, however many STEPs the host issues, and each reports `Halted`. -/
def Obligations.HaltedCoreNeverMoves : Prop :=
  ∀ s : State, s.execEnabled = false →
    (∀ k : Nat, Sys2Proof.core.run k s = .next s) ∧
    ∀ rnd : Byte, transact (.step rnd) s = .next s ∧ response (.step rnd) s = .stepped .halted

/-- R112, R113: a running core that a STEP halts has changed nothing but the latched code, the halt and `ir`, and the code
is latched (D11); the model answers this state as the next one (log 1, DEDUCED). -/
def Obligations.FaultsArePrecise : Prop :=
  ∀ s t : State, s.Running → step s = .next t → t.execEnabled = false →
    t = { s with ir := t.ir, lastError := t.lastError, execEnabled := false } ∧ t.lastError ≠ none

/-- Every transaction answers a next state, in every state: the model refuses nothing and, since it takes the spec's faults
as states (log 1), no transaction answers `Host.Outcome.fault`. -/
def Obligations.EveryTransactionAnswersNext : Prop :=
  ∀ (a : Transaction) (s : State), ∃ t, transact a s = .next t

/-- R46, R86 (log 4): the model's own step is the STEP transaction with the free byte as the host's byte. -/
def Obligations.StepIsTheStepTransaction : Prop :=
  ∀ s : State, step s = transact (.step (Config.hostRnd s.rndCount)) s

/-- R46, R119: what STEP reports: a fault exactly where it halts a running core, `KeyWait` where the instruction is FX0A
with no key down, `Executed` otherwise. -/
def Obligations.StepReportsItsOutcome : Prop :=
  ∀ (s t : State) (rnd : Byte), s.Running → transact (.step rnd) s = .next t →
    (t.execEnabled = false → ∃ f, t.lastError = some f ∧ response (.step rnd) s = .stepped (.fault f)) ∧
    (t.execEnabled = true →
      (∃ x, decode (s.readByte s.pc.toNat ++ s.readByte (s.pc.toNat + 1)) = .op (.ldVxK x)) →
      (∀ k : Key, s.key[k] = false) → response (.step rnd) s = .stepped .keyWait) ∧
    (t.execEnabled = true →
      ¬ ((∃ x, decode (s.readByte s.pc.toNat ++ s.readByte (s.pc.toNat + 1)) = .op (.ldVxK x)) ∧
        ∀ k : Key, s.key[k] = false) → response (.step rnd) s = .stepped .executed)

/-- R39, R44: the fetch sees the bytes last written at `pc`, big-endian. -/
def Obligations.FetchSeesTheLastWrite : Prop :=
  ∀ (s : State) (hi lo : Byte), InSpace s.pc.toNat 2 →
    ((s.writeByte s.pc.toNat hi).writeByte (s.pc.toNat + 1) lo).fetch = some (hi ++ lo)

/-- R64, R102: a JP to its own address and an FX0A with no key down stay at their `pc` for any number of STEPs, changing
nothing but `ir`. -/
def Obligations.SelfJumpAndKeyWaitStayInPlace : Prop :=
  ∀ (s : State) (k : Nat), s.Running → InSpace s.pc.toNat 2 →
    ((∃ nnn : BitVec 12, decode (s.readByte s.pc.toNat ++ s.readByte (s.pc.toNat + 1)) = .op (.jp nnn) ∧
        nnn.toNat = s.pc.toNat) ∨
     ((∃ x, decode (s.readByte s.pc.toNat ++ s.readByte (s.pc.toNat + 1)) = .op (.ldVxK x)) ∧
        ∀ j : Key, s.key[j] = false)) →
    Sys2Proof.core.run (k + 1) s =
      .next { s with ir := s.readByte s.pc.toNat ++ s.readByte (s.pc.toNat + 1) }

/-! ## Control transfer -/

/-- R64: JP. -/
def Obligations.JumpSetsPc : Prop :=
  ∀ (nnn : BitVec 12) (s : State),
    decode (encA 0x1 nnn) = .op (.jp nnn) ∧
    ∃ t, exec (.jp nnn) s = .next t ∧ t = { s with pc := t.pc } ∧ t.pc.toNat = nnn.toNat

/-- R63: RET. Where `sp` is 0 it faults with the post-state of R112 (that every fault halts is the spec's decision D11; that
the model answers this state as the next one is its own reading, log 1, DEDUCED). -/
def Obligations.ReturnPopsTheCallAddress : Prop :=
  ∀ s : State,
    (∀ b : Fin 16, decode (encXKK 0x0 b 0xEE) = .op .ret) ∧
    (∀ k : Fin 16, k.val + 1 = s.sp.val →
      ∃ t, exec .ret s = .next t ∧ t = { s with sp := t.sp, pc := s.stack[k] + 2 } ∧ t.sp.val = k.val) ∧
    (s.sp = 0 → exec .ret s = .next { s with lastError := some .stackUnderflow, execEnabled := false })

/-- R65: CALL. Where `sp` is 16 it faults with the post-state of R112 (that every fault halts is the spec's decision D11;
that the model answers this state as the next one is its own reading, log 1, DEDUCED). -/
def Obligations.CallPushesItsOwnAddress : Prop :=
  ∀ (nnn : BitVec 12) (s : State),
    decode (encA 0x2 nnn) = .op (.call nnn) ∧
    (s.sp.val < 16 →
      ∃ t, exec (.call nnn) s = .next t ∧ t = { s with stack := t.stack, sp := t.sp, pc := t.pc } ∧
        t.sp.val = s.sp.val + 1 ∧ t.pc.toNat = nnn.toNat ∧
        ∀ k : Fin 16, t.stack[k] = if k.val = s.sp.val then s.pc else s.stack[k]) ∧
    (s.sp.val = 16 → exec (.call nnn) s = .next { s with lastError := some .stackOverflow, execEnabled := false })

/-- R71: a CALL, any code that leaves `sp` and the pushed slot alone, and a RET come back behind the CALL with `sp` as
before it. -/
def Obligations.CallThenReturnComesBack : Prop :=
  ∀ (nnn : BitVec 12) (s t u : State), s.sp.val < 16 → exec (.call nnn) s = .next t → u.sp = t.sp →
    (∀ k : Fin 16, k.val = s.sp.val → u.stack[k] = t.stack[k]) →
    ∃ r, exec .ret u = .next r ∧ r.pc = s.pc + 2 ∧ r.sp = s.sp

/-- R66, R67: the skips on an immediate. -/
def Obligations.SkipsOnImmediate : Prop :=
  ∀ (x : Reg) (kk : Byte) (s : State),
    decode (encXKK 0x3 x kk) = .op (.seImm x kk) ∧ decode (encXKK 0x4 x kk) = .op (.sneImm x kk) ∧
    (s.reg x = kk → exec (.seImm x kk) s = .next { s with pc := s.pc + 4 } ∧
      exec (.sneImm x kk) s = .next { s with pc := s.pc + 2 }) ∧
    (s.reg x ≠ kk → exec (.seImm x kk) s = .next { s with pc := s.pc + 2 } ∧
      exec (.sneImm x kk) s = .next { s with pc := s.pc + 4 })

/-- R68, R69: the skips on two registers; bits 3..0 of the word are ignored. -/
def Obligations.SkipsOnRegisters : Prop :=
  ∀ (x y : Reg) (b : Fin 16) (s : State),
    decode (encXYN 0x5 x y b) = .op (.seReg x y) ∧ decode (encXYN 0x9 x y b) = .op (.sneReg x y) ∧
    (s.reg x = s.reg y → exec (.seReg x y) s = .next { s with pc := s.pc + 4 } ∧
      exec (.sneReg x y) s = .next { s with pc := s.pc + 2 }) ∧
    (s.reg x ≠ s.reg y → exec (.seReg x y) s = .next { s with pc := s.pc + 2 } ∧
      exec (.sneReg x y) s = .next { s with pc := s.pc + 4 })

/-- R70 (the sum is not reduced modulo 4096: D4): JP V0. -/
def Obligations.JumpWithOffsetAddsV0 : Prop :=
  ∀ (nnn : BitVec 12) (s : State),
    decode (encA 0xB nnn) = .op (.jpV0 nnn) ∧
    ∃ t, exec (.jpV0 nnn) s = .next t ∧ t = { s with pc := t.pc } ∧ t.pc.toNat = nnn.toNat + (s.reg 0).toNat

/-! ## Arithmetic and logic -/

/-- R75: LD Vx, kk. -/
def Obligations.LoadImmediateWritesTheRegister : Prop :=
  ∀ (x : Reg) (kk : Byte) (s : State),
    decode (encXKK 0x6 x kk) = .op (.ldImm x kk) ∧
    ∃ t, exec (.ldImm x kk) s = .next t ∧ t = { s with v := t.v, pc := s.pc + 2 } ∧
      t.reg x = kk ∧ s.KeepsRegsBut t [x]

/-- R76: ADD Vx, kk, modulo 256 and without a flag. -/
def Obligations.AddImmediateWrapsWithoutFlag : Prop :=
  ∀ (x : Reg) (kk : Byte) (s : State),
    decode (encXKK 0x7 x kk) = .op (.addImm x kk) ∧
    ∃ t, exec (.addImm x kk) s = .next t ∧ t = { s with v := t.v, pc := s.pc + 2 } ∧
      (t.reg x).toNat = ((s.reg x).toNat + kk.toNat) % 256 ∧ s.KeepsRegsBut t [x]

/-- R77 to R80: move, OR, AND, XOR, bit by bit; VF is untouched unless it is Vx. -/
def Obligations.MoveAndLogicLeaveVFAlone : Prop :=
  ∀ (x y : Reg) (s : State),
    (decode (encXYN 0x8 x y 0) = .op (.ldReg x y) ∧ decode (encXYN 0x8 x y 1) = .op (.or x y) ∧
      decode (encXYN 0x8 x y 2) = .op (.and x y) ∧ decode (encXYN 0x8 x y 3) = .op (.xor x y)) ∧
    (∃ t, exec (.ldReg x y) s = .next t ∧ t = { s with v := t.v, pc := s.pc + 2 } ∧
      t.reg x = s.reg y ∧ s.KeepsRegsBut t [x]) ∧
    (∃ t, exec (.or x y) s = .next t ∧ t = { s with v := t.v, pc := s.pc + 2 } ∧
      (∀ b : Nat, (t.reg x).getLsbD b = ((s.reg x).getLsbD b || (s.reg y).getLsbD b)) ∧ s.KeepsRegsBut t [x]) ∧
    (∃ t, exec (.and x y) s = .next t ∧ t = { s with v := t.v, pc := s.pc + 2 } ∧
      (∀ b : Nat, (t.reg x).getLsbD b = ((s.reg x).getLsbD b && (s.reg y).getLsbD b)) ∧ s.KeepsRegsBut t [x]) ∧
    (∃ t, exec (.xor x y) s = .next t ∧ t = { s with v := t.v, pc := s.pc + 2 } ∧
      (∀ b : Nat, (t.reg x).getLsbD b = ((s.reg x).getLsbD b ^^ (s.reg y).getLsbD b)) ∧ s.KeepsRegsBut t [x])

/-- R81: ADD Vx, Vy: the sum modulo 256, and VF the carry unless VF is the destination. -/
def Obligations.AddSetsCarry : Prop :=
  ∀ (x y : Reg) (s : State),
    decode (encXYN 0x8 x y 4) = .op (.addReg x y) ∧
    ∃ t, exec (.addReg x y) s = .next t ∧ t = { s with v := t.v, pc := s.pc + 2 } ∧
      (t.reg x).toNat = ((s.reg x).toNat + (s.reg y).toNat) % 256 ∧
      (x ≠ 15 → t.reg 15 = if (s.reg x).toNat + (s.reg y).toNat > 255 then 1 else 0) ∧
      s.KeepsRegsBut t [x, 15]

/-- R82, R83: SUB and SUBN: the difference modulo 256, and VF 1 exactly where the minuend is STRICTLY greater, unless VF is
the destination. -/
def Obligations.SubtractsSetStrictNotBorrow : Prop :=
  ∀ (x y : Reg) (s : State),
    (decode (encXYN 0x8 x y 5) = .op (.sub x y) ∧ decode (encXYN 0x8 x y 7) = .op (.subn x y)) ∧
    (∃ t, exec (.sub x y) s = .next t ∧ t = { s with v := t.v, pc := s.pc + 2 } ∧
      (t.reg x).toNat = ((s.reg x).toNat + 256 - (s.reg y).toNat) % 256 ∧
      (x ≠ 15 → t.reg 15 = if (s.reg x).toNat > (s.reg y).toNat then 1 else 0) ∧ s.KeepsRegsBut t [x, 15]) ∧
    (∃ t, exec (.subn x y) s = .next t ∧ t = { s with v := t.v, pc := s.pc + 2 } ∧
      (t.reg x).toNat = ((s.reg y).toNat + 256 - (s.reg x).toNat) % 256 ∧
      (x ≠ 15 → t.reg 15 = if (s.reg y).toNat > (s.reg x).toNat then 1 else 0) ∧ s.KeepsRegsBut t [x, 15])

/-- R84, R85: SHR and SHL shift V[X] itself by one, and VF takes the bit shifted out, unless VF is the destination; the
field Y of the word is ignored. -/
def Obligations.ShiftsSetTheBitShiftedOut : Prop :=
  ∀ (x y : Reg) (s : State),
    (decode (encXYN 0x8 x y 6) = .op (.shr x) ∧ decode (encXYN 0x8 x y 0xE) = .op (.shl x)) ∧
    (∃ t, exec (.shr x) s = .next t ∧ t = { s with v := t.v, pc := s.pc + 2 } ∧
      (t.reg x).toNat = (s.reg x).toNat / 2 ∧
      (x ≠ 15 → (t.reg 15).toNat = (s.reg x).toNat % 2) ∧ s.KeepsRegsBut t [x, 15]) ∧
    (∃ t, exec (.shl x) s = .next t ∧ t = { s with v := t.v, pc := s.pc + 2 } ∧
      (t.reg x).toNat = (s.reg x).toNat * 2 % 256 ∧
      (x ≠ 15 → (t.reg 15).toNat = (s.reg x).toNat / 128) ∧ s.KeepsRegsBut t [x, 15])

/-- R86: RND: the host's byte masked by KK, for EVERY byte the host may supply; VF is untouched unless it is Vx. The byte of
the model's own step is a free value, and reading it counts one byte (log 4). -/
def Obligations.RandomIsTheHostByteMasked : Prop :=
  ∀ (x : Reg) (kk : Byte) (s : State),
    decode (encXKK 0xC x kk) = .op (.rnd x kk) ∧
    (∃ t, exec (.rnd x kk) s = .next t ∧ t = { s with v := t.v, pc := s.pc + 2, rndCount := s.rndCount + 1 } ∧
      t.reg x = Config.hostRnd s.rndCount &&& kk ∧ s.KeepsRegsBut t [x]) ∧
    ∀ rnd : Byte, ∃ t, execWith rnd (.rnd x kk) s = .next t ∧
      t = { s with v := t.v, pc := s.pc + 2, rndCount := s.rndCount + 1 } ∧
      t.reg x = rnd &&& kk ∧ s.KeepsRegsBut t [x]

/-! ## Index register and memory -/

/-- R88, R89: LD I and ADD I; no flag. -/
def Obligations.IndexLoadsAndAdds : Prop :=
  ∀ (nnn : BitVec 12) (x : Reg) (s : State),
    (decode (encA 0xA nnn) = .op (.ldI nnn) ∧ decode (encXKK 0xF x 0x1E) = .op (.addIVx x)) ∧
    (∃ t, exec (.ldI nnn) s = .next t ∧ t = { s with i := t.i, pc := s.pc + 2 } ∧ t.i.toNat = nnn.toNat) ∧
    (∃ t, exec (.addIVx x) s = .next t ∧ t = { s with i := t.i, pc := s.pc + 2 } ∧
      t.i.toNat = (s.i.toNat + (s.reg x).toNat) % 65536)

/-- R90 (for every value of the register: D10): LD F. -/
def Obligations.FontAddressIsFiveTimesTheRegister : Prop :=
  ∀ (x : Reg) (s : State),
    decode (encXKK 0xF x 0x29) = .op (.ldFVx x) ∧
    ∃ t, exec (.ldFVx x) s = .next t ∧ t = { s with i := t.i, pc := s.pc + 2 } ∧ t.i.toNat = (s.reg x).toNat * 5

/-- R91: LD B: the three decimal digits at `I`, every other byte kept; out of range (D4: no wrap) it faults and writes
nothing, with the post-state of R112 (D11), answered as the next state (log 1, DEDUCED). -/
def Obligations.BcdStoresThreeDigits : Prop :=
  ∀ (x : Reg) (s : State),
    decode (encXKK 0xF x 0x33) = .op (.ldBVx x) ∧
    (s.i.toNat + 2 ≤ 0xFFF →
      ∃ t, exec (.ldBVx x) s = .next t ∧ t = { s with mem := t.mem, pc := s.pc + 2 } ∧
        (t.readByte s.i.toNat).toNat = (s.reg x).toNat / 100 ∧
        (t.readByte (s.i.toNat + 1)).toNat = (s.reg x).toNat / 10 % 10 ∧
        (t.readByte (s.i.toNat + 2)).toNat = (s.reg x).toNat % 10 ∧
        s.KeepsBytesBut t s.i.toNat 3) ∧
    (s.i.toNat + 2 > 0xFFF →
      exec (.ldBVx x) s = .next { s with lastError := some .addressOutOfRange, execEnabled := false })

/-- R92: LD [I], Vx: V0..VX at `I` onward, `I` past them, every other byte kept; out of range (D4: no wrap) it faults and
writes nothing, with the post-state of R112 (D11), answered as the next state (log 1, DEDUCED). -/
def Obligations.BlockStoreWritesRegisters : Prop :=
  ∀ (x : Reg) (s : State),
    decode (encXKK 0xF x 0x55) = .op (.ldMemVx x) ∧
    (s.i.toNat + x.val ≤ 0xFFF →
      ∃ t, exec (.ldMemVx x) s = .next t ∧ t = { s with mem := t.mem, i := t.i, pc := s.pc + 2 } ∧
        (∀ k : Reg, k ≤ x → t.readByte (s.i.toNat + k.val) = s.reg k) ∧
        t.i.toNat = (s.i.toNat + x.val + 1) % 65536 ∧ s.KeepsBytesBut t s.i.toNat (x.val + 1)) ∧
    (s.i.toNat + x.val > 0xFFF →
      exec (.ldMemVx x) s = .next { s with lastError := some .addressOutOfRange, execEnabled := false })

/-- R93: LD Vx, [I]: V0..VX from `I` onward, `I` past them; out of range it faults (D4) with the post-state of
R112 (D11), answered as the next state (log 1, DEDUCED). -/
def Obligations.BlockLoadReadsRegisters : Prop :=
  ∀ (x : Reg) (s : State),
    decode (encXKK 0xF x 0x65) = .op (.ldVxMem x) ∧
    (s.i.toNat + x.val ≤ 0xFFF →
      ∃ t, exec (.ldVxMem x) s = .next t ∧ t = { s with v := t.v, i := t.i, pc := s.pc + 2 } ∧
        (∀ k : Reg, t.reg k = if k ≤ x then s.readByte (s.i.toNat + k.val) else s.reg k) ∧
        t.i.toNat = (s.i.toNat + x.val + 1) % 65536) ∧
    (s.i.toNat + x.val > 0xFFF →
      exec (.ldVxMem x) s = .next { s with lastError := some .addressOutOfRange, execEnabled := false })

/-- R93, 90_conflicts.md C6: a block store and, with `I` set back to its base and the registers changed at will, a block
load restore V0..VX. -/
def Obligations.BlockStoreThenLoadRestores : Prop :=
  ∀ (x : Reg) (s t : State) (v : Vector Byte 16), s.i.toNat + x.val ≤ 0xFFF → exec (.ldMemVx x) s = .next t →
    ∃ u, exec (.ldVxMem x) { t with i := s.i, v := v } = .next u ∧
      (∀ k : Reg, k ≤ x → u.reg k = s.reg k) ∧ u.i = t.i

/-! ## Display -/

/-- R94: CLS. -/
def Obligations.ClearScreenZeroesEveryCell : Prop :=
  ∀ s : State,
    (∀ b : Fin 16, decode (encXKK 0x0 b 0xE0) = .op .cls) ∧
    ∃ t, exec .cls s = .next t ∧ t = { s with fb := t.fb, fbChanged := true, pc := s.pc + 2 } ∧
      ∀ p : Pixel, (t.fb[p.1])[p.2] = false

/-- R95 to R97 (coordinates sampled before VF is written: D7; the edge policy is the parameter: D6, log 3): DRW flips exactly the
cells that a set sprite bit lands on, and VF is 1 exactly where one of them was on; for every edge policy. -/
def Obligations.DrawFlipsExactlyTheSprite : Prop :=
  ∀ (x y : Reg) (n : Fin 16) (s : State),
    decode (encXYN 0xD x y n) = .op (.drw x y n) ∧
    (s.DrawRuns x y n →
      ∃ t, exec (.drw x y n) s = .next t ∧ t = { s with fb := t.fb, v := t.v, fbChanged := true, pc := s.pc + 2 } ∧
        (∀ p : Pixel, s.SpriteCovers x y n p → (t.fb[p.1])[p.2] = !(s.fb[p.1])[p.2]) ∧
        (∀ p : Pixel, ¬ s.SpriteCovers x y n p → (t.fb[p.1])[p.2] = (s.fb[p.1])[p.2]) ∧
        ((∃ p : Pixel, s.SpriteCovers x y n p ∧ (s.fb[p.1])[p.2] = true) → t.reg 15 = 1) ∧
        ((¬ ∃ p : Pixel, s.SpriteCovers x y n p ∧ (s.fb[p.1])[p.2] = true) → t.reg 15 = 0) ∧
        s.KeepsRegsBut t [15])

/-- R95, R97, R111 (D4, D6, D24; the policy is data in the state: log 3): where DRW faults: a sprite byte above 0xFFF first, then, under `DRAW_EDGE = Fault`, a set
bit outside the grid; nothing is drawn: the post-state of R112 (D11), answered as the next state (log 1, DEDUCED). -/
def Obligations.DrawFaultsInOrder : Prop :=
  ∀ (x y : Reg) (n : Fin 16) (s : State),
    (¬ InSpace s.i.toNat n.val →
      exec (.drw x y n) s = .next { s with lastError := some .addressOutOfRange, execEnabled := false }) ∧
    (InSpace s.i.toNat n.val → s.params.drawEdge = .fault → s.SpriteLeavesGrid x y n →
      exec (.drw x y n) s = .next { s with lastError := some .framebufferOutOfBounds, execEnabled := false })

/-- R98: drawing twice with neither coordinate register VF restores the framebuffer, and the second draw's VF is 1 exactly
where the sprite covers a cell that was off before the first. -/
def Obligations.DrawingTwiceRestoresTheScreen : Prop :=
  ∀ (x y : Reg) (n : Fin 16) (s : State), x ≠ 15 → y ≠ 15 → s.DrawRuns x y n →
    ∃ t u, exec (.drw x y n) s = .next t ∧ exec (.drw x y n) t = .next u ∧ u.fb = s.fb ∧
      (u.reg 15 = 1 ↔ ∃ p : Pixel, s.SpriteCovers x y n p ∧ (s.fb[p.1])[p.2] = false)

/-! ## Keys and timers -/

/-- R99, R100 (the fault above 15: D9): the key skips; the fault leaves the post-state of R112 (D11), answered as the next
state (log 1, DEDUCED). -/
def Obligations.KeySkipsTestTheKey : Prop :=
  ∀ (x : Reg) (s : State),
    (decode (encXKK 0xE x 0x9E) = .op (.skp x) ∧ decode (encXKK 0xE x 0xA1) = .op (.sknp x)) ∧
    (∀ k : Key, (s.reg x).toNat = k.val →
      exec (.skp x) s = .next { s with pc := if s.key[k] then s.pc + 4 else s.pc + 2 } ∧
      exec (.sknp x) s = .next { s with pc := if s.key[k] then s.pc + 2 else s.pc + 4 }) ∧
    ((s.reg x).toNat > 15 →
      exec (.skp x) s = .next { s with lastError := some .keyIndexOutOfRange, execEnabled := false } ∧
      exec (.sknp x) s = .next { s with lastError := some .keyIndexOutOfRange, execEnabled := false })

/-- R102 (the highest key: C4; `key_captured`: D15): the key wait. -/
def Obligations.KeyWaitTakesTheHighestKey : Prop :=
  ∀ (x : Reg) (s : State),
    decode (encXKK 0xF x 0x0A) = .op (.ldVxK x) ∧
    ((∀ k : Key, s.key[k] = false) → exec (.ldVxK x) s = .next s) ∧
    (∀ k : Key, s.key[k] = true → (∀ j : Key, k < j → s.key[j] = false) →
      ∃ t, exec (.ldVxK x) s = .next t ∧ t = { s with v := t.v, keyCaptured := true, pc := s.pc + 2 } ∧
        (t.reg x).toNat = k.val ∧ s.KeepsRegsBut t [x])

/-- R101, R103, R104: the timer reads and writes. -/
def Obligations.TimerMovesCopyTheByte : Prop :=
  ∀ (x : Reg) (s : State),
    (decode (encXKK 0xF x 0x07) = .op (.ldVxDt x) ∧ decode (encXKK 0xF x 0x15) = .op (.ldDtVx x) ∧
      decode (encXKK 0xF x 0x18) = .op (.ldStVx x)) ∧
    (∃ t, exec (.ldVxDt x) s = .next t ∧ t = { s with v := t.v, pc := s.pc + 2 } ∧
      t.reg x = s.dt ∧ s.KeepsRegsBut t [x]) ∧
    exec (.ldDtVx x) s = .next { s with dt := s.reg x, pc := s.pc + 2 } ∧
    exec (.ldStVx x) s = .next { s with st := s.reg x, pc := s.pc + 2 }

/-! ## Whole-machine rules -/

/-- R14 to R16: an instruction writes no register but those the spec names for it. -/
def Obligations.NoOtherRegisterIsWritten : Prop :=
  ∀ (i : Instr) (s t : State), exec i s = .next t → s.KeepsRegsBut t (regsWritten i)

/-- R34: no instruction but FX33 and FX55 changes memory. -/
def Obligations.OnlyBcdAndBlockStoreWriteMemory : Prop :=
  ∀ (i : Instr) (s t : State), exec i s = .next t → (∀ x, i ≠ .ldBVx x) → (∀ x, i ≠ .ldMemVx x) → t.mem = s.mem

/-- R21: CALL and RET are the only mutators of the stack and its pointer. -/
def Obligations.OnlyCallAndReturnTouchTheStack : Prop :=
  ∀ (i : Instr) (s t : State), exec i s = .next t → i ≠ .ret → (∀ nnn, i ≠ .call nnn) →
    t.sp = s.sp ∧ t.stack = s.stack

/-- R24, R29: only CLS and DRW change the framebuffer or mark it changed, and no instruction clears the mark. -/
def Obligations.OnlyClsAndDrawTouchTheScreen : Prop :=
  ∀ (i : Instr) (s t : State), exec i s = .next t →
    (i ≠ .cls → (∀ x y n, i ≠ .drw x y n) → t.fb = s.fb ∧ t.fbChanged = s.fbChanged) ∧
    (s.fbChanged = true → t.fbChanged = true)

/-- R17, R23: no instruction but FX15 writes DT, none but FX18 writes ST, and none but ANNN, FX1E, FX29, FX55 and FX65
writes `I`. -/
def Obligations.TimersAndIndexHaveTheirWriters : Prop :=
  ∀ (i : Instr) (s t : State), exec i s = .next t →
    ((∀ x, i ≠ .ldDtVx x) → t.dt = s.dt) ∧ ((∀ x, i ≠ .ldStVx x) → t.st = s.st) ∧
    ((∀ nnn, i ≠ .ldI nnn) → (∀ x, i ≠ .addIVx x ∧ i ≠ .ldFVx x ∧ i ≠ .ldMemVx x ∧ i ≠ .ldVxMem x) → t.i = s.i)

/-- R25, R26, R28, R29: no instruction writes the key bank, `ir` or `paused`, none enables execution, none clears
`key_captured`. That none writes the parameters of R5 is the model's form of them: constant data in the state (log 2 for the
font, PRESUMED; log 3 for the edge policy, DESIGN CHOICE). -/
def Obligations.InstructionsNeverWriteHostState : Prop :=
  ∀ (i : Instr) (s t : State), exec i s = .next t →
    t.key = s.key ∧ t.ir = s.ir ∧ t.paused = s.paused ∧ t.params = s.params ∧
    (t.execEnabled = true → s.execEnabled = true) ∧ (s.keyCaptured = true → t.keyCaptured = true)

/-- R27, R31: no instruction reads `ir`, a control flag or `last_error`: two states that differ only there run alike and
differ only there afterwards. -/
def Obligations.ControlStateIsNeverRead : Prop :=
  ∀ (i : Instr) (s s' t t' : State),
    s' = { s with ir := s'.ir, execEnabled := s'.execEnabled, fbChanged := s'.fbChanged, paused := s'.paused,
                  keyCaptured := s'.keyCaptured, lastError := s'.lastError } →
    exec i s = .next t → exec i s' = .next t' →
    t' = { t with ir := t'.ir, execEnabled := t'.execEnabled, fbChanged := t'.fbChanged, paused := t'.paused,
                  keyCaptured := t'.keyCaptured, lastError := t'.lastError }

/-- R28, R114: no transaction but a reset starts a halted core again. -/
def Obligations.OnlyResetsRestartTheCore : Prop :=
  ∀ (a : Transaction) (s t : State), transact a s = .next t → s.execEnabled = false → t.execEnabled = true →
    a = .hardReset ∨ a = .softReset

/-! ## Memory -/

/-- R38, R41: a read of the written cell gives the byte written, and every other cell reads as before. Above
0xFFF, where there is no cell, the model's read is the 0 of log 6 before and after. -/
def Obligations.ReadAfterWrite : Prop :=
  ∀ (s : State) (a b : Nat) (w : Byte), a ≤ 0xFFF →
    (s.writeByte a w).readByte b = if b = a then w else s.readByte b

/-- The canonical form is canonical (log 6): two well-formed memories over one font that read alike are equal. -/
def Obligations.EqualReadsMeanEqualMemory : Prop :=
  ∀ (font : Vector Byte 80) (m m' : Memory), Memory.wf font m → Memory.wf font m' →
    (∀ a : Nat, Memory.read font m a = Memory.read font m' a) → m = m'

/-! ## The host's transactions -/

/-- R125: TICK. -/
def Obligations.TickCountsDownToZero : Prop :=
  ∀ s : State, ∃ t, transact .tick s = .next t ∧ t = { s with dt := t.dt, st := t.st } ∧
    (s.dt.toNat > 0 → t.dt.toNat + 1 = s.dt.toNat) ∧ (s.dt = 0 → t.dt = 0) ∧
    (s.st.toNat > 0 → t.st.toNat + 1 = s.st.toNat) ∧ (s.st = 0 → t.st = 0)

/-- R121, R122 (D14 to D16): KEY, FB_ACK, KEYCAP_ACK and PAUSE. -/
def Obligations.HostWritesOneFlag : Prop :=
  ∀ (s : State) (k : Key) (b : Bool),
    (∃ t, transact (.key k b) s = .next t ∧ t = { s with key := t.key } ∧
      ∀ j : Key, t.key[j] = if j = k then b else s.key[j]) ∧
    transact .fbAck s = .next { s with fbChanged := false } ∧
    transact .keycapAck s = .next { s with keyCaptured := false } ∧
    transact (.pause b) s = .next { s with paused := b }

/-- R132 (D21): LOAD copies an image of at most 0xDFF bytes to 0x200 onward and changes nothing else; a longer one, or none,
changes nothing; and each reports so. -/
def Obligations.LoadCopiesTheImage : Prop :=
  ∀ (s : State) (image : List Byte),
    (image.length ≤ 0xDFF →
      (∃ t, transact (.load (some image)) s = .next t ∧ t = { s with mem := t.mem } ∧
        (∀ k b, image[k]? = some b → t.readByte (0x200 + k) = b) ∧ s.KeepsBytesBut t 0x200 image.length) ∧
      response (.load (some image)) s = .loaded .ok) ∧
    (image.length > 0xDFF → transact (.load (some image)) s = .next s ∧
      response (.load (some image)) s = .loaded .imageTooLarge) ∧
    transact (.load none) s = .next s ∧ response (.load none) s = .loaded .sourceUnavailable

/-- R32, R133, R134 (the framebuffer, `ir` and the font under a soft reset: D17): what each reset leaves, from any state,
for every font (a parameter in the state: log 2). Above 0xFFF, where R32 has no cell, the third memory clause states the model's own choice: the total read
gives 0 there (log 6, DESIGN CHOICE). -/
def Obligations.ResetsLeaveTheTableOfResetValues : Prop :=
  ∀ s : State, ∃ t u, transact .hardReset s = .next t ∧ transact .softReset s = .next u ∧
    (∀ (a : Nat) (h : a < 80), t.readByte a = s.params.font[a] ∧ u.readByte a = s.params.font[a]) ∧
    (∀ a : Nat, 0x50 ≤ a → a < 0x200 → t.readByte a = 0 ∧ u.readByte a = 0) ∧
    (∀ a : Nat, 0x200 ≤ a → t.readByte a = 0 ∧ u.readByte a = s.readByte a) ∧
    u = { t with mem := u.mem } ∧ t.pc = 0x200 ∧ t.i = 0 ∧ t.sp = 0 ∧ t.dt = 0 ∧ t.st = 0 ∧ t.ir = 0 ∧
    (∀ k : Reg, t.reg k = 0) ∧ (∀ k : Fin 16, t.stack[k] = 0) ∧ (∀ k : Key, t.key[k] = false) ∧
    (∀ p : Pixel, (t.fb[p.1])[p.2] = false) ∧ t.execEnabled = true ∧ t.fbChanged = false ∧ t.paused = false ∧
    t.keyCaptured = false ∧ t.lastError = none

/-- R32: `State.reset` is the state a hard reset leaves under its own parameters (logs 2 and 3) and
its own count of random bytes (log 4); with its default font (log 2) glyph 0 is
at address 0. -/
def Obligations.ResetStateIsAHardReset : Prop :=
  (∀ s : State, s.params = State.reset.params → s.rndCount = State.reset.rndCount →
    transact .hardReset s = .next State.reset) ∧
  State.reset.readBytes 0 5 = [0xF0, 0x90, 0x90, 0x90, 0xF0] ∧ State.reset.readByte 0x200 = 0

/-! ## The invariant -/

/-- R20, R28, R30, R32 (the halt on every fault: D11): the invariant holds at reset. Its canonical form of memory is the
model's (log 6, DEDUCED), with nothing listed at reset. -/
def Obligations.ResetHasTheInvariant : Prop := State.reset.Inv

/-- R20, R28, R30 (D11; log 6): every STEP keeps the invariant: canonical memory, halted exactly where an error is latched, `pc`
and the occupied stack slots in their bounds. -/
def Obligations.StepKeepsTheInvariant : Prop := ∀ s t : State, s.Inv → step s = .next t → t.Inv

/-- R20, R28, R30, R118 (D11; log 6): every transaction, and so every finite sequence of them in any order, keeps the
invariant. -/
def Obligations.TransactionsKeepTheInvariant : Prop :=
  ∀ (as : List Transaction) (s t : State), s.Inv → transactAll as s = .next t → t.Inv
end

