-- ==== Sys2Proof/Laws/Decode.lean ====
section
/-!
SUPPORT. The encoder's formats: each field read back from a word built of it, and each format under the masks of
spec/opcode_table.json.
-/
namespace Sys2Proof

variable (c : BitVec 4) (x y : Reg) (n : Fin 16) (k : Byte) (a : BitVec 12)

/-! ## Fields -/

@[simp] theorem nibble1_encA : nibble1 (encA c a) = c := BitVec.extractLsb'_append_eq_left

@[simp] theorem fieldNNN_encA : fieldNNN (encA c a) = a := BitVec.extractLsb'_append_eq_right

@[simp] theorem nibble1_encXKK : nibble1 (encXKK c x k) = c :=
  (BitVec.extractLsb'_append_eq_of_le (by decide)).trans BitVec.extractLsb'_append_eq_left

@[simp] theorem fieldX_encXKK : fieldX (encXKK c x k) = x :=
  congrArg BitVec.toFin
    ((BitVec.extractLsb'_append_eq_of_le (by decide)).trans BitVec.extractLsb'_append_eq_right)

@[simp] theorem fieldKK_encXKK : fieldKK (encXKK c x k) = k := BitVec.extractLsb'_append_eq_right

@[simp] theorem nibble1_encXYN : nibble1 (encXYN c x y n) = c :=
  (BitVec.extractLsb'_append_eq_of_le (by decide)).trans
    ((BitVec.extractLsb'_append_eq_of_le (by decide)).trans BitVec.extractLsb'_append_eq_left)

@[simp] theorem fieldX_encXYN : fieldX (encXYN c x y n) = x :=
  congrArg BitVec.toFin ((BitVec.extractLsb'_append_eq_of_le (by decide)).trans
    ((BitVec.extractLsb'_append_eq_of_le (by decide)).trans BitVec.extractLsb'_append_eq_right))

@[simp] theorem fieldY_encXYN : fieldY (encXYN c x y n) = y :=
  congrArg BitVec.toFin
    ((BitVec.extractLsb'_append_eq_of_le (by decide)).trans BitVec.extractLsb'_append_eq_right)

@[simp] theorem fieldN_encXYN : fieldN (encXYN c x y n) = n :=
  congrArg BitVec.toFin BitVec.extractLsb'_append_eq_right

/-! ## Masks -/

theorem encA_and (c d : BitVec 4) (a b : BitVec 12) : encA c a &&& encA d b = encA (c &&& d) (a &&& b) :=
  BitVec.and_append

theorem and_ones4 (c : BitVec 4) : c &&& 0xF#4 = c := by revert c; decide

theorem and_ones8 (k : BitVec 8) : k &&& 0xFF#8 = k := by simpa using BitVec.and_allOnes (x := k)

/-- The class of a word in format A. -/
theorem encA_class : encA c a &&& 0xF000 = encA c 0 := by
  have h : encA c a &&& encA 0xF#4 0#12 = encA c 0 := by
    rw [encA_and, and_ones4, BitVec.and_zero]
    rfl
  exact h

/-- The class of a word in format XKK. -/
theorem encXKK_class : encXKK c x k &&& 0xF000 = encXKK c 0 0 := by
  have h : ((c ++ (BitVec.ofFin x : BitVec 4)) ++ k) &&& ((0xF#4 ++ 0#4) ++ 0#8) = (c ++ 0#4) ++ 0#8 := by
    simp only [BitVec.and_append, BitVec.and_zero, and_ones4]
  exact h

/-- The class and the low byte of a word in format O or X. -/
theorem encXKK_class_low : encXKK c x k &&& 0xF0FF = encXKK c 0 k := by
  have h : ((c ++ (BitVec.ofFin x : BitVec 4)) ++ k) &&& ((0xF#4 ++ 0#4) ++ 0xFF#8) = (c ++ 0#4) ++ k := by
    simp only [BitVec.and_append, BitVec.and_zero, and_ones4, and_ones8]
  exact h

/-- The class of a word in format XY or XYN. -/
theorem encXYN_class : encXYN c x y n &&& 0xF000 = encXYN c 0 0 0 := by
  have h : (((c ++ (BitVec.ofFin x : BitVec 4)) ++ (BitVec.ofFin y : BitVec 4)) ++ (BitVec.ofFin n : BitVec 4)) &&&
      (((0xF#4 ++ 0#4) ++ 0#4) ++ 0#4) = ((c ++ 0#4) ++ 0#4) ++ 0#4 := by
    simp only [BitVec.and_append, BitVec.and_zero, and_ones4]
  exact h

/-- The class and the low nibble of a word in format XY. -/
theorem encXYN_class_low : encXYN c x y n &&& 0xF00F = encXYN c 0 0 n := by
  have h : (((c ++ (BitVec.ofFin x : BitVec 4)) ++ (BitVec.ofFin y : BitVec 4)) ++ (BitVec.ofFin n : BitVec 4)) &&&
      (((0xF#4 ++ 0#4) ++ 0#4) ++ 0xF#4) = ((c ++ 0#4) ++ 0#4) ++ (BitVec.ofFin n : BitVec 4) := by
    simp only [BitVec.and_append, BitVec.and_zero, and_ones4]
  exact h

/-- The ignored low nibble is 0 where the encoder writes 0 (R57, R61). -/
theorem encXYN_low_zero : encXYN c x y 0 &&& 0x000F = 0 := by
  have h : (((c ++ (BitVec.ofFin x : BitVec 4)) ++ (BitVec.ofFin y : BitVec 4)) ++ 0#4) &&&
      (((0#4 ++ 0#4) ++ 0#4) ++ 0xF#4) = ((0#4 ++ 0#4) ++ 0#4) ++ 0#4 := by
    simp only [BitVec.and_append, BitVec.and_zero, and_ones4]
  exact h

/-- The ignored field Y is 0 where the encoder writes 0 (R57, R61). -/
theorem encXYN_y_zero : encXYN c x 0 n &&& 0x00F0 = 0 := by
  have h : (((c ++ (BitVec.ofFin x : BitVec 4)) ++ 0#4) ++ (BitVec.ofFin n : BitVec 4)) &&&
      (((0#4 ++ 0#4) ++ 0xF#4) ++ 0#4) = ((0#4 ++ 0#4) ++ 0#4) ++ 0#4 := by
    simp only [BitVec.and_append, BitVec.and_zero, and_ones4]
  exact h

end Sys2Proof
end

