-- ==== Sys2Proof/Laws/Framebuffer.lean ====
section
/-!
SUPPORT. The framebuffer and the sprite scan: what a flip and a scan do to each cell, and which coordinates a sprite lights.
-/
namespace Sys2Proof.Machine

theorem Framebuffer.get_flip (f : Framebuffer) (p q : Pixel) :
    (f.flip p).get q = if q = p then !f.get p else f.get q := by
  obtain ⟨r, c⟩ := p
  obtain ⟨r', c'⟩ := q
  simp only [Framebuffer.flip, Framebuffer.get, Fin.getElem_fin, Vector.getElem_set, Prod.mk.injEq, Fin.ext_iff]
  by_cases hr : r.val = r'.val
  · by_cases hc : c.val = c'.val
    · simp [hr, hc]
    · simp [hr, hc, Ne.symm hc]
  · simp [hr, Ne.symm hr]

@[simp] theorem Framebuffer.get_blank (p : Pixel) : Framebuffer.blank.get p = false := by
  simp [Framebuffer.blank, Framebuffer.get]

/-- A scan of distinct cells flips exactly those, and the flag is promoted where one of them was on (R96). -/
theorem xorScan_spec (ps : List Pixel) (h : ps.Nodup) (f : Framebuffer) (hit : Bool) :
    (∀ q, (xorScan ps f hit).1.get q = if q ∈ ps then !f.get q else f.get q) ∧
    (xorScan ps f hit).2 = (hit || ps.any f.get) := by
  induction ps generalizing f hit with
  | nil => simp [xorScan]
  | cons p ps ih =>
    obtain ⟨hp, hps⟩ := List.nodup_cons.mp h
    obtain ⟨h1, h2⟩ := ih hps (f.flip p) (hit || f.get p)
    refine ⟨fun q => ?_, ?_⟩
    · rw [xorScan, h1, Framebuffer.get_flip]
      by_cases hq : q = p
      · subst hq; simp [hp]
      · simp [hq]
    · rw [xorScan, h2, List.any_cons, Bool.or_assoc]
      have hkeep : ps.any (f.flip p).get = ps.any f.get := by
        rw [Bool.eq_iff_iff, List.any_eq_true, List.any_eq_true]
        have hget : ∀ q ∈ ps, (f.flip p).get q = f.get q := fun q hq => by
          have hne : q ≠ p := fun e => hp (e ▸ hq)
          rw [Framebuffer.get_flip, if_neg hne]
        exact exists_congr fun q => and_congr_right fun hq => by rw [hget q hq]
      rw [hkeep]

/-! ## The pixels of a sprite -/

theorem mem_rowPixels (row : Byte) (y x : Nat) (q : Nat × Nat) :
    q ∈ rowPixels row y x ↔ ∃ c, c < 8 ∧ row.getLsbD (7 - c) = true ∧ q = (y, x + c) := by
  simp only [rowPixels, List.mem_map, List.mem_filter, List.mem_range, and_assoc, eq_comm (a := q)]

/-- The coordinates a sprite lights: its set bits, from the row and column it is drawn at (R95). -/
theorem mem_spritePixels (rows : List Byte) (y x : Nat) (q : Nat × Nat) :
    q ∈ spritePixels rows y x ↔
      ∃ r c b, rows[r]? = some b ∧ c < 8 ∧ b.getLsbD (7 - c) = true ∧ q = (y + r, x + c) := by
  induction rows generalizing y with
  | nil => simp [spritePixels]
  | cons b rows ih =>
    rw [spritePixels, List.mem_append, mem_rowPixels, ih]
    constructor
    · rintro (⟨c, hc, hb, rfl⟩ | ⟨r, c, b', hr, hc, hb, rfl⟩)
      · exact ⟨0, c, b, rfl, hc, hb, rfl⟩
      · exact ⟨r + 1, c, b', by simpa using hr, hc, hb, by rw [Nat.add_assoc, Nat.add_comm 1]⟩
    · rintro ⟨r, c, b', hr, hc, hb, rfl⟩
      cases r with
      | zero =>
        obtain rfl : b = b' := by simpa using hr
        exact .inl ⟨c, hc, hb, rfl⟩
      | succ r => exact .inr ⟨r, c, b', by simpa using hr, hc, hb, by rw [Nat.add_assoc, Nat.add_comm 1]⟩

theorem rowPixels_nodup (row : Byte) (y x : Nat) : (rowPixels row y x).Nodup := by
  refine List.Nodup.map (fun c d h => ?_) (List.nodup_range.filter _)
  simpa using h

theorem spritePixels_nodup (rows : List Byte) (y x : Nat) : (spritePixels rows y x).Nodup := by
  induction rows generalizing y with
  | nil => exact List.nodup_nil
  | cons b rows ih =>
    refine List.nodup_append.mpr ⟨rowPixels_nodup b y x, ih (y + 1), fun p hp q hq => ?_⟩
    obtain ⟨c, -, -, rfl⟩ := (mem_rowPixels ..).mp hp
    obtain ⟨r, d, b', -, -, -, rfl⟩ := (mem_spritePixels ..).mp hq
    intro h
    have := congrArg Prod.fst h
    simp only at this
    omega

/-- Where a coordinate pair lands is what the rule says of the cell (R97). -/
theorem place_eq_some (e : DrawEdge) (row col : Nat) (p : Pixel) :
    place e (row, col) = some p ↔ LandsOn e row col p := by
  obtain ⟨⟨r, hr⟩, ⟨c, hc⟩⟩ := p
  cases e <;> simp [place, LandsOn, offGrid, Fin.ext_iff] <;> omega

/-- Within one DRW no cell is written twice: a sprite is 8 columns wide and at most 15 rows high (R96). -/
theorem placedPixels_nodup (e : DrawEdge) (rows : List Byte) (y x : Nat) (h : rows.length ≤ 32) :
    ((spritePixels rows y x).filterMap (place e)).Nodup := by
  refine List.pairwise_filterMap.mpr ((spritePixels_nodup rows y x).imp_of_mem fun {p q} hp hq hne a ha b hb hab => ?_)
  subst hab
  obtain ⟨r, c, b1, hr, hc, -, rfl⟩ := (mem_spritePixels ..).mp hp
  obtain ⟨r', c', b2, hr', hc', -, rfl⟩ := (mem_spritePixels ..).mp hq
  have h1 := (List.getElem?_eq_some_iff.mp hr).1
  have h2 := (List.getElem?_eq_some_iff.mp hr').1
  have ha := (place_eq_some ..).mp ha
  have hb := (place_eq_some ..).mp hb
  refine hne ?_
  cases e <;> simp only [LandsOn] at ha hb <;> (congr 1 <;> omega)

end Sys2Proof.Machine
end

