-- ==== Sys2Proof/Laws/State.lean ====
section
/-!
SUPPORT. Each update of the state read back field by field: one lemma per field per update, each by `rfl`, so that no proof
unfolds a record update; and the registers read back after a register write.
-/
namespace Sys2Proof.Machine

/-! The sizes, as the numbers that `omega` reads. -/

@[simp] theorem memSize_eq : memSize = 4096 := rfl
@[simp] theorem loadAddr_eq : loadAddr = 512 := rfl
@[simp] theorem imageMax_eq : imageMax = 3583 := rfl
@[simp] theorem fontLen_eq : fontLen = 80 := rfl
@[simp] theorem glyphStride_eq : glyphStride = 5 := rfl

/-! Each update, field by field. -/

variable (s : State)

@[simp] theorem State.setReg_mem (r : Reg) (b : Byte) : (s.setReg r b).mem = s.mem := rfl
@[simp] theorem State.setReg_v (r : Reg) (b : Byte) : (s.setReg r b).v = s.v.set r b := rfl
@[simp] theorem State.setReg_i (r : Reg) (b : Byte) : (s.setReg r b).i = s.i := rfl
@[simp] theorem State.setReg_pc (r : Reg) (b : Byte) : (s.setReg r b).pc = s.pc := rfl
@[simp] theorem State.setReg_stack (r : Reg) (b : Byte) : (s.setReg r b).stack = s.stack := rfl
@[simp] theorem State.setReg_sp (r : Reg) (b : Byte) : (s.setReg r b).sp = s.sp := rfl
@[simp] theorem State.setReg_dt (r : Reg) (b : Byte) : (s.setReg r b).dt = s.dt := rfl
@[simp] theorem State.setReg_st (r : Reg) (b : Byte) : (s.setReg r b).st = s.st := rfl
@[simp] theorem State.setReg_fb (r : Reg) (b : Byte) : (s.setReg r b).fb = s.fb := rfl
@[simp] theorem State.setReg_key (r : Reg) (b : Byte) : (s.setReg r b).key = s.key := rfl
@[simp] theorem State.setReg_ir (r : Reg) (b : Byte) : (s.setReg r b).ir = s.ir := rfl
@[simp] theorem State.setReg_execEnabled (r : Reg) (b : Byte) : (s.setReg r b).execEnabled = s.execEnabled := rfl
@[simp] theorem State.setReg_fbChanged (r : Reg) (b : Byte) : (s.setReg r b).fbChanged = s.fbChanged := rfl
@[simp] theorem State.setReg_paused (r : Reg) (b : Byte) : (s.setReg r b).paused = s.paused := rfl
@[simp] theorem State.setReg_keyCaptured (r : Reg) (b : Byte) : (s.setReg r b).keyCaptured = s.keyCaptured := rfl
@[simp] theorem State.setReg_lastError (r : Reg) (b : Byte) : (s.setReg r b).lastError = s.lastError := rfl
@[simp] theorem State.setReg_params (r : Reg) (b : Byte) : (s.setReg r b).params = s.params := rfl
@[simp] theorem State.setReg_rndCount (r : Reg) (b : Byte) : (s.setReg r b).rndCount = s.rndCount := rfl

@[simp] theorem State.setI_mem (w : Word) : (s.setI w).mem = s.mem := rfl
@[simp] theorem State.setI_v (w : Word) : (s.setI w).v = s.v := rfl
@[simp] theorem State.setI_i (w : Word) : (s.setI w).i = w := rfl
@[simp] theorem State.setI_pc (w : Word) : (s.setI w).pc = s.pc := rfl
@[simp] theorem State.setI_stack (w : Word) : (s.setI w).stack = s.stack := rfl
@[simp] theorem State.setI_sp (w : Word) : (s.setI w).sp = s.sp := rfl
@[simp] theorem State.setI_dt (w : Word) : (s.setI w).dt = s.dt := rfl
@[simp] theorem State.setI_st (w : Word) : (s.setI w).st = s.st := rfl
@[simp] theorem State.setI_fb (w : Word) : (s.setI w).fb = s.fb := rfl
@[simp] theorem State.setI_key (w : Word) : (s.setI w).key = s.key := rfl
@[simp] theorem State.setI_ir (w : Word) : (s.setI w).ir = s.ir := rfl
@[simp] theorem State.setI_execEnabled (w : Word) : (s.setI w).execEnabled = s.execEnabled := rfl
@[simp] theorem State.setI_fbChanged (w : Word) : (s.setI w).fbChanged = s.fbChanged := rfl
@[simp] theorem State.setI_paused (w : Word) : (s.setI w).paused = s.paused := rfl
@[simp] theorem State.setI_keyCaptured (w : Word) : (s.setI w).keyCaptured = s.keyCaptured := rfl
@[simp] theorem State.setI_lastError (w : Word) : (s.setI w).lastError = s.lastError := rfl
@[simp] theorem State.setI_params (w : Word) : (s.setI w).params = s.params := rfl
@[simp] theorem State.setI_rndCount (w : Word) : (s.setI w).rndCount = s.rndCount := rfl

@[simp] theorem State.setIr_mem (w : Word) : (s.setIr w).mem = s.mem := rfl
@[simp] theorem State.setIr_v (w : Word) : (s.setIr w).v = s.v := rfl
@[simp] theorem State.setIr_i (w : Word) : (s.setIr w).i = s.i := rfl
@[simp] theorem State.setIr_pc (w : Word) : (s.setIr w).pc = s.pc := rfl
@[simp] theorem State.setIr_stack (w : Word) : (s.setIr w).stack = s.stack := rfl
@[simp] theorem State.setIr_sp (w : Word) : (s.setIr w).sp = s.sp := rfl
@[simp] theorem State.setIr_dt (w : Word) : (s.setIr w).dt = s.dt := rfl
@[simp] theorem State.setIr_st (w : Word) : (s.setIr w).st = s.st := rfl
@[simp] theorem State.setIr_fb (w : Word) : (s.setIr w).fb = s.fb := rfl
@[simp] theorem State.setIr_key (w : Word) : (s.setIr w).key = s.key := rfl
@[simp] theorem State.setIr_ir (w : Word) : (s.setIr w).ir = w := rfl
@[simp] theorem State.setIr_execEnabled (w : Word) : (s.setIr w).execEnabled = s.execEnabled := rfl
@[simp] theorem State.setIr_fbChanged (w : Word) : (s.setIr w).fbChanged = s.fbChanged := rfl
@[simp] theorem State.setIr_paused (w : Word) : (s.setIr w).paused = s.paused := rfl
@[simp] theorem State.setIr_keyCaptured (w : Word) : (s.setIr w).keyCaptured = s.keyCaptured := rfl
@[simp] theorem State.setIr_lastError (w : Word) : (s.setIr w).lastError = s.lastError := rfl
@[simp] theorem State.setIr_params (w : Word) : (s.setIr w).params = s.params := rfl
@[simp] theorem State.setIr_rndCount (w : Word) : (s.setIr w).rndCount = s.rndCount := rfl

@[simp] theorem State.setPc_mem (w : Word) : (s.setPc w).mem = s.mem := rfl
@[simp] theorem State.setPc_v (w : Word) : (s.setPc w).v = s.v := rfl
@[simp] theorem State.setPc_i (w : Word) : (s.setPc w).i = s.i := rfl
@[simp] theorem State.setPc_pc (w : Word) : (s.setPc w).pc = w := rfl
@[simp] theorem State.setPc_stack (w : Word) : (s.setPc w).stack = s.stack := rfl
@[simp] theorem State.setPc_sp (w : Word) : (s.setPc w).sp = s.sp := rfl
@[simp] theorem State.setPc_dt (w : Word) : (s.setPc w).dt = s.dt := rfl
@[simp] theorem State.setPc_st (w : Word) : (s.setPc w).st = s.st := rfl
@[simp] theorem State.setPc_fb (w : Word) : (s.setPc w).fb = s.fb := rfl
@[simp] theorem State.setPc_key (w : Word) : (s.setPc w).key = s.key := rfl
@[simp] theorem State.setPc_ir (w : Word) : (s.setPc w).ir = s.ir := rfl
@[simp] theorem State.setPc_execEnabled (w : Word) : (s.setPc w).execEnabled = s.execEnabled := rfl
@[simp] theorem State.setPc_fbChanged (w : Word) : (s.setPc w).fbChanged = s.fbChanged := rfl
@[simp] theorem State.setPc_paused (w : Word) : (s.setPc w).paused = s.paused := rfl
@[simp] theorem State.setPc_keyCaptured (w : Word) : (s.setPc w).keyCaptured = s.keyCaptured := rfl
@[simp] theorem State.setPc_lastError (w : Word) : (s.setPc w).lastError = s.lastError := rfl
@[simp] theorem State.setPc_params (w : Word) : (s.setPc w).params = s.params := rfl
@[simp] theorem State.setPc_rndCount (w : Word) : (s.setPc w).rndCount = s.rndCount := rfl

@[simp] theorem State.advance_mem : s.advance.mem = s.mem := rfl
@[simp] theorem State.advance_v : s.advance.v = s.v := rfl
@[simp] theorem State.advance_i : s.advance.i = s.i := rfl
@[simp] theorem State.advance_pc : s.advance.pc = s.pc + 2 := rfl
@[simp] theorem State.advance_stack : s.advance.stack = s.stack := rfl
@[simp] theorem State.advance_sp : s.advance.sp = s.sp := rfl
@[simp] theorem State.advance_dt : s.advance.dt = s.dt := rfl
@[simp] theorem State.advance_st : s.advance.st = s.st := rfl
@[simp] theorem State.advance_fb : s.advance.fb = s.fb := rfl
@[simp] theorem State.advance_key : s.advance.key = s.key := rfl
@[simp] theorem State.advance_ir : s.advance.ir = s.ir := rfl
@[simp] theorem State.advance_execEnabled : s.advance.execEnabled = s.execEnabled := rfl
@[simp] theorem State.advance_fbChanged : s.advance.fbChanged = s.fbChanged := rfl
@[simp] theorem State.advance_paused : s.advance.paused = s.paused := rfl
@[simp] theorem State.advance_keyCaptured : s.advance.keyCaptured = s.keyCaptured := rfl
@[simp] theorem State.advance_lastError : s.advance.lastError = s.lastError := rfl
@[simp] theorem State.advance_params : s.advance.params = s.params := rfl
@[simp] theorem State.advance_rndCount : s.advance.rndCount = s.rndCount := rfl

@[simp] theorem State.skipIf_mem (c : Bool) : (s.skipIf c).mem = s.mem := rfl
@[simp] theorem State.skipIf_v (c : Bool) : (s.skipIf c).v = s.v := rfl
@[simp] theorem State.skipIf_i (c : Bool) : (s.skipIf c).i = s.i := rfl
@[simp] theorem State.skipIf_pc (c : Bool) : (s.skipIf c).pc = if c then s.pc + 4 else s.pc + 2 := rfl
@[simp] theorem State.skipIf_stack (c : Bool) : (s.skipIf c).stack = s.stack := rfl
@[simp] theorem State.skipIf_sp (c : Bool) : (s.skipIf c).sp = s.sp := rfl
@[simp] theorem State.skipIf_dt (c : Bool) : (s.skipIf c).dt = s.dt := rfl
@[simp] theorem State.skipIf_st (c : Bool) : (s.skipIf c).st = s.st := rfl
@[simp] theorem State.skipIf_fb (c : Bool) : (s.skipIf c).fb = s.fb := rfl
@[simp] theorem State.skipIf_key (c : Bool) : (s.skipIf c).key = s.key := rfl
@[simp] theorem State.skipIf_ir (c : Bool) : (s.skipIf c).ir = s.ir := rfl
@[simp] theorem State.skipIf_execEnabled (c : Bool) : (s.skipIf c).execEnabled = s.execEnabled := rfl
@[simp] theorem State.skipIf_fbChanged (c : Bool) : (s.skipIf c).fbChanged = s.fbChanged := rfl
@[simp] theorem State.skipIf_paused (c : Bool) : (s.skipIf c).paused = s.paused := rfl
@[simp] theorem State.skipIf_keyCaptured (c : Bool) : (s.skipIf c).keyCaptured = s.keyCaptured := rfl
@[simp] theorem State.skipIf_lastError (c : Bool) : (s.skipIf c).lastError = s.lastError := rfl
@[simp] theorem State.skipIf_params (c : Bool) : (s.skipIf c).params = s.params := rfl
@[simp] theorem State.skipIf_rndCount (c : Bool) : (s.skipIf c).rndCount = s.rndCount := rfl

@[simp] theorem State.takeFault_mem (f : Fault) : (s.takeFault f).mem = s.mem := rfl
@[simp] theorem State.takeFault_v (f : Fault) : (s.takeFault f).v = s.v := rfl
@[simp] theorem State.takeFault_i (f : Fault) : (s.takeFault f).i = s.i := rfl
@[simp] theorem State.takeFault_pc (f : Fault) : (s.takeFault f).pc = s.pc := rfl
@[simp] theorem State.takeFault_stack (f : Fault) : (s.takeFault f).stack = s.stack := rfl
@[simp] theorem State.takeFault_sp (f : Fault) : (s.takeFault f).sp = s.sp := rfl
@[simp] theorem State.takeFault_dt (f : Fault) : (s.takeFault f).dt = s.dt := rfl
@[simp] theorem State.takeFault_st (f : Fault) : (s.takeFault f).st = s.st := rfl
@[simp] theorem State.takeFault_fb (f : Fault) : (s.takeFault f).fb = s.fb := rfl
@[simp] theorem State.takeFault_key (f : Fault) : (s.takeFault f).key = s.key := rfl
@[simp] theorem State.takeFault_ir (f : Fault) : (s.takeFault f).ir = s.ir := rfl
@[simp] theorem State.takeFault_execEnabled (f : Fault) : (s.takeFault f).execEnabled = false := rfl
@[simp] theorem State.takeFault_fbChanged (f : Fault) : (s.takeFault f).fbChanged = s.fbChanged := rfl
@[simp] theorem State.takeFault_paused (f : Fault) : (s.takeFault f).paused = s.paused := rfl
@[simp] theorem State.takeFault_keyCaptured (f : Fault) : (s.takeFault f).keyCaptured = s.keyCaptured := rfl
@[simp] theorem State.takeFault_lastError (f : Fault) : (s.takeFault f).lastError = some f := rfl
@[simp] theorem State.takeFault_params (f : Fault) : (s.takeFault f).params = s.params := rfl
@[simp] theorem State.takeFault_rndCount (f : Fault) : (s.takeFault f).rndCount = s.rndCount := rfl

@[simp] theorem State.setFlagThenReg_mem (g : Byte) (x : Reg) (b : Byte) : (s.setFlagThenReg g x b).mem = s.mem := rfl
@[simp] theorem State.setFlagThenReg_v (g : Byte) (x : Reg) (b : Byte) : (s.setFlagThenReg g x b).v = (s.v.set vF g).set x b := rfl
@[simp] theorem State.setFlagThenReg_i (g : Byte) (x : Reg) (b : Byte) : (s.setFlagThenReg g x b).i = s.i := rfl
@[simp] theorem State.setFlagThenReg_pc (g : Byte) (x : Reg) (b : Byte) : (s.setFlagThenReg g x b).pc = s.pc := rfl
@[simp] theorem State.setFlagThenReg_stack (g : Byte) (x : Reg) (b : Byte) : (s.setFlagThenReg g x b).stack = s.stack := rfl
@[simp] theorem State.setFlagThenReg_sp (g : Byte) (x : Reg) (b : Byte) : (s.setFlagThenReg g x b).sp = s.sp := rfl
@[simp] theorem State.setFlagThenReg_dt (g : Byte) (x : Reg) (b : Byte) : (s.setFlagThenReg g x b).dt = s.dt := rfl
@[simp] theorem State.setFlagThenReg_st (g : Byte) (x : Reg) (b : Byte) : (s.setFlagThenReg g x b).st = s.st := rfl
@[simp] theorem State.setFlagThenReg_fb (g : Byte) (x : Reg) (b : Byte) : (s.setFlagThenReg g x b).fb = s.fb := rfl
@[simp] theorem State.setFlagThenReg_key (g : Byte) (x : Reg) (b : Byte) : (s.setFlagThenReg g x b).key = s.key := rfl
@[simp] theorem State.setFlagThenReg_ir (g : Byte) (x : Reg) (b : Byte) : (s.setFlagThenReg g x b).ir = s.ir := rfl
@[simp] theorem State.setFlagThenReg_execEnabled (g : Byte) (x : Reg) (b : Byte) : (s.setFlagThenReg g x b).execEnabled = s.execEnabled := rfl
@[simp] theorem State.setFlagThenReg_fbChanged (g : Byte) (x : Reg) (b : Byte) : (s.setFlagThenReg g x b).fbChanged = s.fbChanged := rfl
@[simp] theorem State.setFlagThenReg_paused (g : Byte) (x : Reg) (b : Byte) : (s.setFlagThenReg g x b).paused = s.paused := rfl
@[simp] theorem State.setFlagThenReg_keyCaptured (g : Byte) (x : Reg) (b : Byte) : (s.setFlagThenReg g x b).keyCaptured = s.keyCaptured := rfl
@[simp] theorem State.setFlagThenReg_lastError (g : Byte) (x : Reg) (b : Byte) : (s.setFlagThenReg g x b).lastError = s.lastError := rfl
@[simp] theorem State.setFlagThenReg_params (g : Byte) (x : Reg) (b : Byte) : (s.setFlagThenReg g x b).params = s.params := rfl
@[simp] theorem State.setFlagThenReg_rndCount (g : Byte) (x : Reg) (b : Byte) : (s.setFlagThenReg g x b).rndCount = s.rndCount := rfl

@[simp] theorem State.writeByte_mem (a : Nat) (b : Byte) : (s.writeByte a b).mem = Memory.write s.params.font s.mem a b := rfl
@[simp] theorem State.writeByte_v (a : Nat) (b : Byte) : (s.writeByte a b).v = s.v := rfl
@[simp] theorem State.writeByte_i (a : Nat) (b : Byte) : (s.writeByte a b).i = s.i := rfl
@[simp] theorem State.writeByte_pc (a : Nat) (b : Byte) : (s.writeByte a b).pc = s.pc := rfl
@[simp] theorem State.writeByte_stack (a : Nat) (b : Byte) : (s.writeByte a b).stack = s.stack := rfl
@[simp] theorem State.writeByte_sp (a : Nat) (b : Byte) : (s.writeByte a b).sp = s.sp := rfl
@[simp] theorem State.writeByte_dt (a : Nat) (b : Byte) : (s.writeByte a b).dt = s.dt := rfl
@[simp] theorem State.writeByte_st (a : Nat) (b : Byte) : (s.writeByte a b).st = s.st := rfl
@[simp] theorem State.writeByte_fb (a : Nat) (b : Byte) : (s.writeByte a b).fb = s.fb := rfl
@[simp] theorem State.writeByte_key (a : Nat) (b : Byte) : (s.writeByte a b).key = s.key := rfl
@[simp] theorem State.writeByte_ir (a : Nat) (b : Byte) : (s.writeByte a b).ir = s.ir := rfl
@[simp] theorem State.writeByte_execEnabled (a : Nat) (b : Byte) : (s.writeByte a b).execEnabled = s.execEnabled := rfl
@[simp] theorem State.writeByte_fbChanged (a : Nat) (b : Byte) : (s.writeByte a b).fbChanged = s.fbChanged := rfl
@[simp] theorem State.writeByte_paused (a : Nat) (b : Byte) : (s.writeByte a b).paused = s.paused := rfl
@[simp] theorem State.writeByte_keyCaptured (a : Nat) (b : Byte) : (s.writeByte a b).keyCaptured = s.keyCaptured := rfl
@[simp] theorem State.writeByte_lastError (a : Nat) (b : Byte) : (s.writeByte a b).lastError = s.lastError := rfl
@[simp] theorem State.writeByte_params (a : Nat) (b : Byte) : (s.writeByte a b).params = s.params := rfl
@[simp] theorem State.writeByte_rndCount (a : Nat) (b : Byte) : (s.writeByte a b).rndCount = s.rndCount := rfl

@[simp] theorem State.writeBytes_mem (a : Nat) (bs : List Byte) : (s.writeBytes a bs).mem = Memory.writeBytes s.params.font s.mem a bs := rfl
@[simp] theorem State.writeBytes_v (a : Nat) (bs : List Byte) : (s.writeBytes a bs).v = s.v := rfl
@[simp] theorem State.writeBytes_i (a : Nat) (bs : List Byte) : (s.writeBytes a bs).i = s.i := rfl
@[simp] theorem State.writeBytes_pc (a : Nat) (bs : List Byte) : (s.writeBytes a bs).pc = s.pc := rfl
@[simp] theorem State.writeBytes_stack (a : Nat) (bs : List Byte) : (s.writeBytes a bs).stack = s.stack := rfl
@[simp] theorem State.writeBytes_sp (a : Nat) (bs : List Byte) : (s.writeBytes a bs).sp = s.sp := rfl
@[simp] theorem State.writeBytes_dt (a : Nat) (bs : List Byte) : (s.writeBytes a bs).dt = s.dt := rfl
@[simp] theorem State.writeBytes_st (a : Nat) (bs : List Byte) : (s.writeBytes a bs).st = s.st := rfl
@[simp] theorem State.writeBytes_fb (a : Nat) (bs : List Byte) : (s.writeBytes a bs).fb = s.fb := rfl
@[simp] theorem State.writeBytes_key (a : Nat) (bs : List Byte) : (s.writeBytes a bs).key = s.key := rfl
@[simp] theorem State.writeBytes_ir (a : Nat) (bs : List Byte) : (s.writeBytes a bs).ir = s.ir := rfl
@[simp] theorem State.writeBytes_execEnabled (a : Nat) (bs : List Byte) : (s.writeBytes a bs).execEnabled = s.execEnabled := rfl
@[simp] theorem State.writeBytes_fbChanged (a : Nat) (bs : List Byte) : (s.writeBytes a bs).fbChanged = s.fbChanged := rfl
@[simp] theorem State.writeBytes_paused (a : Nat) (bs : List Byte) : (s.writeBytes a bs).paused = s.paused := rfl
@[simp] theorem State.writeBytes_keyCaptured (a : Nat) (bs : List Byte) : (s.writeBytes a bs).keyCaptured = s.keyCaptured := rfl
@[simp] theorem State.writeBytes_lastError (a : Nat) (bs : List Byte) : (s.writeBytes a bs).lastError = s.lastError := rfl
@[simp] theorem State.writeBytes_params (a : Nat) (bs : List Byte) : (s.writeBytes a bs).params = s.params := rfl
@[simp] theorem State.writeBytes_rndCount (a : Nat) (bs : List Byte) : (s.writeBytes a bs).rndCount = s.rndCount := rfl

@[simp] theorem State.tick_mem : s.tick.mem = s.mem := rfl
@[simp] theorem State.tick_v : s.tick.v = s.v := rfl
@[simp] theorem State.tick_i : s.tick.i = s.i := rfl
@[simp] theorem State.tick_pc : s.tick.pc = s.pc := rfl
@[simp] theorem State.tick_stack : s.tick.stack = s.stack := rfl
@[simp] theorem State.tick_sp : s.tick.sp = s.sp := rfl
@[simp] theorem State.tick_dt : s.tick.dt = countDown s.dt := rfl
@[simp] theorem State.tick_st : s.tick.st = countDown s.st := rfl
@[simp] theorem State.tick_fb : s.tick.fb = s.fb := rfl
@[simp] theorem State.tick_key : s.tick.key = s.key := rfl
@[simp] theorem State.tick_ir : s.tick.ir = s.ir := rfl
@[simp] theorem State.tick_execEnabled : s.tick.execEnabled = s.execEnabled := rfl
@[simp] theorem State.tick_fbChanged : s.tick.fbChanged = s.fbChanged := rfl
@[simp] theorem State.tick_paused : s.tick.paused = s.paused := rfl
@[simp] theorem State.tick_keyCaptured : s.tick.keyCaptured = s.keyCaptured := rfl
@[simp] theorem State.tick_lastError : s.tick.lastError = s.lastError := rfl
@[simp] theorem State.tick_params : s.tick.params = s.params := rfl
@[simp] theorem State.tick_rndCount : s.tick.rndCount = s.rndCount := rfl

@[simp] theorem State.setKey_mem (k : Key) (d : Bool) : (s.setKey k d).mem = s.mem := rfl
@[simp] theorem State.setKey_v (k : Key) (d : Bool) : (s.setKey k d).v = s.v := rfl
@[simp] theorem State.setKey_i (k : Key) (d : Bool) : (s.setKey k d).i = s.i := rfl
@[simp] theorem State.setKey_pc (k : Key) (d : Bool) : (s.setKey k d).pc = s.pc := rfl
@[simp] theorem State.setKey_stack (k : Key) (d : Bool) : (s.setKey k d).stack = s.stack := rfl
@[simp] theorem State.setKey_sp (k : Key) (d : Bool) : (s.setKey k d).sp = s.sp := rfl
@[simp] theorem State.setKey_dt (k : Key) (d : Bool) : (s.setKey k d).dt = s.dt := rfl
@[simp] theorem State.setKey_st (k : Key) (d : Bool) : (s.setKey k d).st = s.st := rfl
@[simp] theorem State.setKey_fb (k : Key) (d : Bool) : (s.setKey k d).fb = s.fb := rfl
@[simp] theorem State.setKey_key (k : Key) (d : Bool) : (s.setKey k d).key = s.key.set k d := rfl
@[simp] theorem State.setKey_ir (k : Key) (d : Bool) : (s.setKey k d).ir = s.ir := rfl
@[simp] theorem State.setKey_execEnabled (k : Key) (d : Bool) : (s.setKey k d).execEnabled = s.execEnabled := rfl
@[simp] theorem State.setKey_fbChanged (k : Key) (d : Bool) : (s.setKey k d).fbChanged = s.fbChanged := rfl
@[simp] theorem State.setKey_paused (k : Key) (d : Bool) : (s.setKey k d).paused = s.paused := rfl
@[simp] theorem State.setKey_keyCaptured (k : Key) (d : Bool) : (s.setKey k d).keyCaptured = s.keyCaptured := rfl
@[simp] theorem State.setKey_lastError (k : Key) (d : Bool) : (s.setKey k d).lastError = s.lastError := rfl
@[simp] theorem State.setKey_params (k : Key) (d : Bool) : (s.setKey k d).params = s.params := rfl
@[simp] theorem State.setKey_rndCount (k : Key) (d : Bool) : (s.setKey k d).rndCount = s.rndCount := rfl

/-- The register written reads as written, every other as before. -/
theorem State.reg_setReg (r k : Reg) (b : Byte) : (s.setReg r b).reg k = if k = r then b else s.reg k := by
  simp [State.reg, Vector.getElem_set, Fin.ext_iff, eq_comm]

@[simp] theorem State.reg_setReg_self (r : Reg) (b : Byte) : (s.setReg r b).reg r = b := by simp [State.reg_setReg]

theorem State.reg_setReg_ne {r k : Reg} (h : k ≠ r) (b : Byte) : (s.setReg r b).reg k = s.reg k := by
  simp [State.reg_setReg, h]

/-- VF holds the flag unless it is the destination, which holds the result. -/
theorem State.reg_setFlagThenReg (x k : Reg) (g b : Byte) :
    (s.setFlagThenReg g x b).reg k = if k = x then b else if k = vF then g else s.reg k := by
  simp [State.setFlagThenReg, State.reg_setReg]

/-- A register depends on the register file alone. -/
theorem State.reg_eq_of_v {s t : State} (h : t.v = s.v) (k : Reg) : t.reg k = s.reg k := by simp [State.reg, h]

/-- A byte read depends on the memory and the font alone. -/
theorem State.readByte_eq_of_mem {s t : State} (hm : t.mem = s.mem) (hp : t.params = s.params) (a : Nat) :
    t.readByte a = s.readByte a := by simp [State.readByte, hm, hp]

/-- A block read depends on the memory and the font alone. -/
theorem State.readBytes_eq_of_mem {s t : State} (hm : t.mem = s.mem) (hp : t.params = s.params) (a n : Nat) :
    t.readBytes a n = s.readBytes a n := by
  induction n generalizing a with
  | zero => rfl
  | succ n ih => simp [State.readBytes, State.readByte_eq_of_mem hm hp, ih]

end Sys2Proof.Machine
end

