-- ==== Sys2Proof/Laws/Memory.lean ====
section
/-!
SUPPORT. The memory: what each operation does to a read, and that each keeps the canonical form.
-/
namespace Sys2Proof.Machine

/-! ## Reads -/

theorem Memory.lookup_insert (m : Memory) (a b : Nat) (v : Byte) :
    Memory.lookup (Memory.insert m a v) b = if b = a then some v else Memory.lookup m b := by
  induction m with
  | nil => simp [Memory.insert, Memory.lookup]
  | cons c m ih =>
    obtain ⟨d, w⟩ := c
    unfold Memory.insert
    split
    · simp [Memory.lookup]
    · split
      · subst_vars
        by_cases h : b = d <;> simp [Memory.lookup, h]
      · by_cases h : b = d
        · subst h
          simp [Memory.lookup, Ne.symm ‹¬a = b›]
        · simp [Memory.lookup, h, ih]

theorem Memory.lookup_filter (m : Memory) (p : Nat → Bool) (b : Nat) :
    Memory.lookup (m.filter fun c => p c.1) b = if p b then Memory.lookup m b else none := by
  induction m with
  | nil => simp [Memory.lookup]
  | cons c m ih =>
    obtain ⟨d, w⟩ := c
    by_cases hd : p d = true
    · by_cases h : b = d
      · subst h; simp [Memory.lookup, hd]
      · simp [Memory.lookup, hd, h, ih]
    · by_cases h : b = d
      · subst h; simp [hd, ih]
      · simp [Memory.lookup, hd, h, ih]

theorem Memory.lookup_erase (m : Memory) (a b : Nat) :
    Memory.lookup (Memory.erase m a) b = if b = a then none else Memory.lookup m b := by
  simp only [Memory.erase]
  rw [Memory.lookup_filter m (fun x => decide (x ≠ a))]
  by_cases h : b = a <;> simp [h]

/-- A write within the space sets the byte it names and no other. -/
theorem Memory.read_write (font : Vector Byte 80) (m : Memory) {a : Nat} (ha : a < memSize) (v : Byte) (b : Nat) :
    Memory.read font (Memory.write font m a v) b = if b = a then v else Memory.read font m b := by
  unfold Memory.write
  rw [if_pos ha]
  split
  · by_cases h : b = a
    · subst h; simp [Memory.read, Memory.lookup_erase, ‹v = _›]
    · simp [Memory.read, Memory.lookup_erase, h]
  · by_cases h : b = a <;> simp [Memory.read, Memory.lookup_insert, h]

/-- A write at an address above 0xFFF is not performed (R38). -/
theorem Memory.write_outside (font : Vector Byte 80) (m : Memory) {a : Nat} (ha : memSize ≤ a) (v : Byte) :
    Memory.write font m a v = m := if_neg (Nat.not_lt.mpr ha)

/-- A block write within the space sets exactly the bytes of the block. -/
theorem Memory.read_writeBytes (font : Vector Byte 80) (vs : List Byte) (m : Memory) (a : Nat)
    (h : a + vs.length ≤ memSize) (b : Nat) :
    Memory.read font (Memory.writeBytes font m a vs) b =
      if a ≤ b then (vs[b - a]?).getD (Memory.read font m b) else Memory.read font m b := by
  induction vs generalizing m a with
  | nil => simp [Memory.writeBytes]
  | cons v vs ih =>
    simp only [List.length_cons] at h
    rw [Memory.writeBytes, ih _ _ (by omega), Memory.read_write font m (by omega)]
    by_cases h1 : a + 1 ≤ b
    · have h2 : b - a = (b - (a + 1)) + 1 := by omega
      simp [h1, h2, show a ≤ b by omega, show b ≠ a by omega]
    · by_cases h3 : b = a
      · subst h3; simp
      · simp [h1, h3, show ¬a ≤ b by omega]

/-! ## The canonical form -/

theorem Memory.mem_insert {m : Memory} {a : Nat} {v : Byte} {c : Host.Cell} (h : c ∈ Memory.insert m a v) :
    c = (a, v) ∨ c ∈ m := by
  induction m with
  | nil => simpa [Memory.insert] using h
  | cons d m ih =>
    unfold Memory.insert at h
    split at h
    · simpa using h
    · split at h
      · simp only [List.mem_cons] at h ⊢
        tauto
      · simp only [List.mem_cons] at h ⊢
        rcases h with h | h
        · exact .inr (.inl h)
        · exact (ih h).imp id .inr

theorem Memory.insert_rising {m : Memory} (a : Nat) (v : Byte) (h : m.Pairwise fun c d => c.1 < d.1) :
    (Memory.insert m a v).Pairwise fun c d => c.1 < d.1 := by
  induction m with
  | nil => simp [Memory.insert]
  | cons d m ih =>
    obtain ⟨hd, hm⟩ := List.pairwise_cons.mp h
    unfold Memory.insert
    split
    · refine List.pairwise_cons.mpr ⟨fun c hc => ?_, h⟩
      rcases List.mem_cons.mp hc with rfl | hc
      · assumption
      · exact Nat.lt_trans ‹_› (hd c hc)
    · split
      · subst_vars
        exact List.pairwise_cons.mpr ⟨hd, hm⟩
      · refine List.pairwise_cons.mpr ⟨fun c hc => ?_, ih hm⟩
        rcases Memory.mem_insert hc with rfl | hc
        · show d.1 < a
          omega
        · exact hd c hc

theorem Memory.filter_wf {font : Vector Byte 80} {m : Memory} (p : Host.Cell → Bool) (h : Memory.wf font m) :
    Memory.wf font (m.filter p) :=
  ⟨h.1.filter p, fun c hc => h.2 c (List.mem_filter.mp hc).1⟩

/-- A write keeps the canonical form. -/
theorem Memory.write_wf {font : Vector Byte 80} {m : Memory} (a : Nat) (v : Byte) (h : Memory.wf font m) :
    Memory.wf font (Memory.write font m a v) := by
  unfold Memory.write
  split
  · split
    · exact Memory.filter_wf _ h
    · refine ⟨Memory.insert_rising a v h.1, fun c hc => ?_⟩
      rcases Memory.mem_insert hc with rfl | hc
      · exact ⟨‹_›, ‹_›⟩
      · exact h.2 c hc
  · exact h

/-- A block write keeps the canonical form. -/
theorem Memory.writeBytes_wf {font : Vector Byte 80} (vs : List Byte) {m : Memory} (a : Nat) (h : Memory.wf font m) :
    Memory.wf font (Memory.writeBytes font m a vs) := by
  induction vs generalizing m a with
  | nil => exact h
  | cons v vs ih => exact ih _ (Memory.write_wf a v h)

/-- The reset memory lists nothing and is canonical. -/
theorem Memory.reset_wf (font : Vector Byte 80) : Memory.wf font [] :=
  ⟨List.Pairwise.nil, fun _ h => absurd h List.not_mem_nil⟩

/-! ## The space -/

/-- The model's range check is the rule's: every address of the access is at most 0xFFF (R38). -/
theorem inRange_iff (a n : Nat) : inRange a n = true ↔ InSpace a n := by
  simp only [inRange, InSpace, memSize, Bool.or_eq_true, beq_iff_eq, decide_eq_true_eq]
  constructor
  · rintro (h | h) k hk <;> omega
  · intro h
    rcases Nat.eq_zero_or_pos n with h0 | h0
    · exact .inl h0
    · exact .inr (by have := h (n - 1) (by omega); omega)

end Sys2Proof.Machine
end

