-- ==== Sys2Proof/Laws/Ops.lean ====
section
/-!
SUPPORT. For each shared operation, one lemma that says what it can do: the stack, the faults, the register shapes, the
operand forms, the keys, the fetch and the engine. A proof cites these and does not unfold the operation.
-/
namespace Sys2Proof.Machine

variable (s : State)

/-! ## Faults and the stack -/

@[simp] theorem raise_eq (f : Fault) :
    raise f s = .next { s with lastError := some f, execEnabled := false } := rfl

/-- CALL's push answers exactly where a slot is free, and then changes that slot and `sp` alone (R21). -/
theorem State.push_of_lt (w : Word) (h : s.sp.val < 16) :
    s.push w = some { s with stack := s.stack.set s.sp.val w, sp := ⟨s.sp.val + 1, Nat.succ_lt_succ h⟩ } :=
  dif_pos h

theorem State.push_full (w : Word) (h : s.sp.val = 16) : s.push w = none := dif_neg (by omega)

/-- What a push can answer. -/
theorem State.push_cases (w : Word) :
    (s.sp.val = 16 ∧ s.push w = none) ∨
    ∃ h : s.sp.val < 16,
      s.push w = some { s with stack := s.stack.set s.sp.val w, sp := ⟨s.sp.val + 1, Nat.succ_lt_succ h⟩ } := by
  by_cases h : s.sp.val < 16
  · exact .inr ⟨h, s.push_of_lt w h⟩
  · have h16 : s.sp.val = 16 := by have := s.sp.isLt; omega
    exact .inl ⟨h16, s.push_full w h16⟩

/-- RET's pop answers exactly where a slot is occupied: the top slot, and `sp` one less (R21, R22). -/
theorem State.pop_of_succ (k : Fin 16) (h : k.val + 1 = s.sp.val) :
    s.pop = some (s.stack[k], { s with sp := ⟨k.val, by have := k.isLt; omega⟩ }) := by
  have h0 : 0 < s.sp.val := by omega
  have hk : s.sp.val - 1 = k.val := by omega
  simp [State.pop, h0, hk]

theorem State.pop_empty (h : s.sp = 0) : s.pop = none := by simp [State.pop, h]

/-- What a pop can answer. -/
theorem State.pop_cases :
    (s.sp = 0 ∧ s.pop = none) ∨
    ∃ k : Fin 16, k.val + 1 = s.sp.val ∧
      s.pop = some (s.stack[k], { s with sp := ⟨k.val, by have := k.isLt; omega⟩ }) := by
  rcases Nat.eq_zero_or_pos s.sp.val with h | h
  · have h0 : s.sp = 0 := Fin.ext h
    exact .inl ⟨h0, s.pop_empty h0⟩
  · have hlt := s.sp.isLt
    let k : Fin 16 := ⟨s.sp.val - 1, by omega⟩
    have hk : k.val + 1 = s.sp.val := by simp only [k]; omega
    exact .inr ⟨k, hk, s.pop_of_succ k hk⟩

/-! ## Register shapes -/

/-- The operations without a flag change `V[x]` and `pc` alone. -/
theorem writeReg_eq (x : Reg) (b : Byte) :
    writeReg x b s = .next { s with v := (s.setReg x b).v, pc := s.pc + 2 } := rfl

/-- The flag-setting operations change VF, `V[x]` and `pc` alone. -/
theorem writeFlagAndReg_eq (g : Byte) (x : Reg) (b : Byte) :
    writeFlagAndReg g x b s = .next { s with v := (s.setFlagThenReg g x b).v, pc := s.pc + 2 } := rfl

/-- A skip changes `pc` alone. -/
theorem State.skipIf_eq (c : Bool) : s.skipIf c = { s with pc := if c then s.pc + 4 else s.pc + 2 } := rfl

/-! ## Operand forms -/

@[simp] theorem addressOf_toNat (nnn : BitVec 12) : (addressOf nnn).toNat = nnn.toNat := by
  have := nnn.isLt
  simp only [addressOf, BitVec.truncate_eq_setWidth, BitVec.toNat_setWidth]
  omega

theorem State.length_regsUpTo (x : Reg) : (s.regsUpTo x).length = x.val + 1 := by
  simp [State.regsUpTo]

/-- FX55's block: the k-th byte is `V[k]`. -/
theorem State.regsUpTo_get (x k : Reg) (h : k ≤ x) : (s.regsUpTo x)[k.val]? = some (s.reg k) := by
  have hk : k.val < x.val + 1 := Nat.lt_succ_of_le h
  simp [State.regsUpTo, State.reg, hk]

/-- FX65's registers: the bytes at `I` up to `V[x]`, the rest kept. -/
theorem State.regsFromMem_get (x k : Reg) :
    (s.regsFromMem x)[k] = if k ≤ x then s.readByte (s.i.toNat + k.val) else s.reg k := by
  simp [State.regsFromMem, State.dataAddress]

/-- A register names a key exactly where it holds at most 15. -/
theorem keyIndex_eq_some (a : Byte) (k : Key) : keyIndex a = some k ↔ a.toNat = k.val := by
  unfold keyIndex
  split
  · simp [Fin.ext_iff]
  · have := k.isLt
    simp; omega

theorem keyIndex_eq_none (a : Byte) : keyIndex a = none ↔ 15 < a.toNat := by
  unfold keyIndex
  split <;> simp <;> omega

/-- What a scan of keys from low to high leaves: the last one down. -/
theorem lastDown_foldl (down : Key → Bool) (ks : List Key) (acc : Option Key) :
    ks.foldl (fun acc k => if down k then some k else acc) acc = ((ks.filter down).getLast?).or acc := by
  induction ks generalizing acc with
  | nil => simp
  | cons k ks ih =>
    rw [List.foldl_cons, ih]
    by_cases h : down k = true
    · cases hl : (ks.filter down).getLast? with
      | none => simp [h, List.getLast?_eq_none_iff.mp hl]
      | some j => simp [h, List.getLast?_cons, hl]
    · simp [h]

/-- No key is found exactly where none is down (R102). -/
theorem State.lastKeyDown_eq_none : s.lastKeyDown = none ↔ ∀ k : Key, s.key[k] = false := by
  unfold State.lastKeyDown
  rw [lastDown_foldl]
  simp [State.keyDown]

/-- The key found is down and no higher one is (R102). -/
theorem State.lastKeyDown_eq_some (k : Key) :
    s.lastKeyDown = some k ↔ s.key[k] = true ∧ ∀ j : Key, k < j → s.key[j] = false := by
  unfold State.lastKeyDown
  rw [lastDown_foldl, Option.or_none]
  have hmem : ∀ j : Key, j ∈ (List.finRange 16).filter s.keyDown ↔ s.key[j] = true := by simp [State.keyDown]
  have hsort : ((List.finRange 16).filter s.keyDown).Pairwise (· < ·) := (List.pairwise_lt_finRange 16).filter _
  generalize (List.finRange 16).filter s.keyDown = ks at hmem hsort
  constructor
  · intro h
    obtain ⟨ys, rfl⟩ := List.getLast?_eq_some_iff.mp h
    refine ⟨(hmem k).mp (by simp), fun j hj => ?_⟩
    by_contra hd
    have hjm := (hmem j).mpr (by simpa using hd)
    rcases List.mem_append.mp hjm with hjy | hjk
    · exact absurd ((List.pairwise_append.mp hsort).2.2 j hjy k (by simp)) (lt_asymm hj)
    · exact absurd (List.mem_singleton.mp hjk) (ne_of_gt hj)
  · rintro ⟨hk, hhigh⟩
    have hkm := (hmem k).mpr hk
    cases hl : ks.getLast? with
    | none => rw [List.getLast?_eq_none_iff.mp hl] at hkm; exact absurd hkm List.not_mem_nil
    | some j =>
      obtain ⟨ys, rfl⟩ := List.getLast?_eq_some_iff.mp hl
      rcases List.mem_append.mp hkm with hky | hkj
      · have hlt := (List.pairwise_append.mp hsort).2.2 k hky j (by simp)
        exact absurd ((hmem j).mp (by simp)) (by simp [hhigh j hlt])
      · rw [List.mem_singleton.mp hkj]

/-! ## The fetch and the engine -/

/-- The fetch reads the big-endian word at `pc`, inside memory alone (R39, R46). -/
theorem State.fetch_of_inSpace (h : InSpace s.pc.toNat 2) :
    s.fetch = some (s.readByte s.pc.toNat ++ s.readByte (s.pc.toNat + 1)) :=
  if_pos (h 1 (by decide))

theorem State.fetch_outside (h : ¬ InSpace s.pc.toNat 2) : s.fetch = none :=
  if_neg fun h1 => h fun k hk => by omega

/-- What one STEP can do (R46, R111): nothing while halted, a fetch fault, an unknown word, or the decoded instruction. -/
theorem engine_cases (ex : Instr → State → Answer) :
    (s.execEnabled = false ∧ engine ex s = .next s) ∨
    (s.execEnabled = true ∧ s.fetch = none ∧ engine ex s = raise .addressOutOfRange s) ∨
    (∃ w, s.execEnabled = true ∧ s.fetch = some w ∧ decode w = .unknown ∧
      engine ex s = raise .unknownOpcode (s.setIr w)) ∨
    (∃ w i, s.execEnabled = true ∧ s.fetch = some w ∧ decode w = .op i ∧ engine ex s = ex i (s.setIr w)) := by
  unfold engine
  cases he : s.execEnabled
  · simp
  · cases hf : s.fetch with
    | none => simp
    | some w => cases hd : decode w <;> simp [hd]

end Sys2Proof.Machine
end

