-- ==== Sys2Proof/Laws/PerInstr.lean ====
section
/-!
SUPPORT. Statements made per instruction. `EncodedWord`: the word of an instruction is one an assembler writes, under its
own row of spec/opcode_table.json (R57, R61).
-/
namespace Sys2Proof.Laws

/-- The word of `i` matches the row of its mnemonic, with every ignored bit 0. -/
def EncodedWord.Statement (i : Instr) : Prop :=
  ∃ r ∈ opcodeTable, r.mnemonic = i.mnemonic ∧ r.hits (encode i) = true ∧ encode i &&& ignoredBits r.mnemonic = 0

/-- A row of the table proves the statement of the instructions whose words it matches. -/
theorem encodedWord_of_row {i : Instr} (r : OpcodeRow) (hr : r ∈ opcodeTable) (hm : r.mnemonic = i.mnemonic)
    (hw : encode i &&& r.mask = r.pattern) (hz : encode i &&& ignoredBits r.mnemonic = 0) :
    EncodedWord.Statement i := ⟨r, hr, hm, beq_iff_eq.mpr hw, hz⟩

theorem EncodedWord.cls : EncodedWord.Statement (.cls) :=
  encodedWord_of_row ⟨"CLS", 0xF0FF, 0x00E0⟩ (by decide) rfl (encXKK_class_low _ _ _) (rfl)

theorem EncodedWord.ret : EncodedWord.Statement (.ret) :=
  encodedWord_of_row ⟨"RET", 0xF0FF, 0x00EE⟩ (by decide) rfl (encXKK_class_low _ _ _) (rfl)

theorem EncodedWord.jp (nnn : BitVec 12) : EncodedWord.Statement (.jp nnn) :=
  encodedWord_of_row ⟨"JP", 0xF000, 0x1000⟩ (by decide) rfl (encA_class _ _) (BitVec.and_zero)

theorem EncodedWord.call (nnn : BitVec 12) : EncodedWord.Statement (.call nnn) :=
  encodedWord_of_row ⟨"CALL", 0xF000, 0x2000⟩ (by decide) rfl (encA_class _ _) (BitVec.and_zero)

theorem EncodedWord.seImm (x : Reg) (kk : Byte) : EncodedWord.Statement (.seImm x kk) :=
  encodedWord_of_row ⟨"SE_IMM", 0xF000, 0x3000⟩ (by decide) rfl (encXKK_class _ _ _) (BitVec.and_zero)

theorem EncodedWord.sneImm (x : Reg) (kk : Byte) : EncodedWord.Statement (.sneImm x kk) :=
  encodedWord_of_row ⟨"SNE_IMM", 0xF000, 0x4000⟩ (by decide) rfl (encXKK_class _ _ _) (BitVec.and_zero)

theorem EncodedWord.seReg (x y : Reg) : EncodedWord.Statement (.seReg x y) :=
  encodedWord_of_row ⟨"SE_REG", 0xF000, 0x5000⟩ (by decide) rfl (encXYN_class _ _ _ _) (encXYN_low_zero _ _ _)

theorem EncodedWord.ldImm (x : Reg) (kk : Byte) : EncodedWord.Statement (.ldImm x kk) :=
  encodedWord_of_row ⟨"LD_IMM", 0xF000, 0x6000⟩ (by decide) rfl (encXKK_class _ _ _) (BitVec.and_zero)

theorem EncodedWord.addImm (x : Reg) (kk : Byte) : EncodedWord.Statement (.addImm x kk) :=
  encodedWord_of_row ⟨"ADD_IMM", 0xF000, 0x7000⟩ (by decide) rfl (encXKK_class _ _ _) (BitVec.and_zero)

theorem EncodedWord.ldReg (x y : Reg) : EncodedWord.Statement (.ldReg x y) :=
  encodedWord_of_row ⟨"LD_REG", 0xF00F, 0x8000⟩ (by decide) rfl (encXYN_class_low _ _ _ _) (BitVec.and_zero)

theorem EncodedWord.or (x y : Reg) : EncodedWord.Statement (.or x y) :=
  encodedWord_of_row ⟨"OR", 0xF00F, 0x8001⟩ (by decide) rfl (encXYN_class_low _ _ _ _) (BitVec.and_zero)

theorem EncodedWord.and (x y : Reg) : EncodedWord.Statement (.and x y) :=
  encodedWord_of_row ⟨"AND", 0xF00F, 0x8002⟩ (by decide) rfl (encXYN_class_low _ _ _ _) (BitVec.and_zero)

theorem EncodedWord.xor (x y : Reg) : EncodedWord.Statement (.xor x y) :=
  encodedWord_of_row ⟨"XOR", 0xF00F, 0x8003⟩ (by decide) rfl (encXYN_class_low _ _ _ _) (BitVec.and_zero)

theorem EncodedWord.addReg (x y : Reg) : EncodedWord.Statement (.addReg x y) :=
  encodedWord_of_row ⟨"ADD_REG", 0xF00F, 0x8004⟩ (by decide) rfl (encXYN_class_low _ _ _ _) (BitVec.and_zero)

theorem EncodedWord.sub (x y : Reg) : EncodedWord.Statement (.sub x y) :=
  encodedWord_of_row ⟨"SUB", 0xF00F, 0x8005⟩ (by decide) rfl (encXYN_class_low _ _ _ _) (BitVec.and_zero)

theorem EncodedWord.shr (x : Reg) : EncodedWord.Statement (.shr x) :=
  encodedWord_of_row ⟨"SHR", 0xF00F, 0x8006⟩ (by decide) rfl (encXYN_class_low _ _ _ _) (encXYN_y_zero _ _ _)

theorem EncodedWord.subn (x y : Reg) : EncodedWord.Statement (.subn x y) :=
  encodedWord_of_row ⟨"SUBN", 0xF00F, 0x8007⟩ (by decide) rfl (encXYN_class_low _ _ _ _) (BitVec.and_zero)

theorem EncodedWord.shl (x : Reg) : EncodedWord.Statement (.shl x) :=
  encodedWord_of_row ⟨"SHL", 0xF00F, 0x800E⟩ (by decide) rfl (encXYN_class_low _ _ _ _) (encXYN_y_zero _ _ _)

theorem EncodedWord.sneReg (x y : Reg) : EncodedWord.Statement (.sneReg x y) :=
  encodedWord_of_row ⟨"SNE_REG", 0xF000, 0x9000⟩ (by decide) rfl (encXYN_class _ _ _ _) (encXYN_low_zero _ _ _)

theorem EncodedWord.ldI (nnn : BitVec 12) : EncodedWord.Statement (.ldI nnn) :=
  encodedWord_of_row ⟨"LD_I", 0xF000, 0xA000⟩ (by decide) rfl (encA_class _ _) (BitVec.and_zero)

theorem EncodedWord.jpV0 (nnn : BitVec 12) : EncodedWord.Statement (.jpV0 nnn) :=
  encodedWord_of_row ⟨"JP_V0", 0xF000, 0xB000⟩ (by decide) rfl (encA_class _ _) (BitVec.and_zero)

theorem EncodedWord.rnd (x : Reg) (kk : Byte) : EncodedWord.Statement (.rnd x kk) :=
  encodedWord_of_row ⟨"RND", 0xF000, 0xC000⟩ (by decide) rfl (encXKK_class _ _ _) (BitVec.and_zero)

theorem EncodedWord.drw (x y : Reg) (n : Fin 16) : EncodedWord.Statement (.drw x y n) :=
  encodedWord_of_row ⟨"DRW", 0xF000, 0xD000⟩ (by decide) rfl (encXYN_class _ _ _ _) (BitVec.and_zero)

theorem EncodedWord.skp (x : Reg) : EncodedWord.Statement (.skp x) :=
  encodedWord_of_row ⟨"SKP", 0xF0FF, 0xE09E⟩ (by decide) rfl (encXKK_class_low _ _ _) (BitVec.and_zero)

theorem EncodedWord.sknp (x : Reg) : EncodedWord.Statement (.sknp x) :=
  encodedWord_of_row ⟨"SKNP", 0xF0FF, 0xE0A1⟩ (by decide) rfl (encXKK_class_low _ _ _) (BitVec.and_zero)

theorem EncodedWord.ldVxDt (x : Reg) : EncodedWord.Statement (.ldVxDt x) :=
  encodedWord_of_row ⟨"LD_VX_DT", 0xF0FF, 0xF007⟩ (by decide) rfl (encXKK_class_low _ _ _) (BitVec.and_zero)

theorem EncodedWord.ldVxK (x : Reg) : EncodedWord.Statement (.ldVxK x) :=
  encodedWord_of_row ⟨"LD_VX_K", 0xF0FF, 0xF00A⟩ (by decide) rfl (encXKK_class_low _ _ _) (BitVec.and_zero)

theorem EncodedWord.ldDtVx (x : Reg) : EncodedWord.Statement (.ldDtVx x) :=
  encodedWord_of_row ⟨"LD_DT_VX", 0xF0FF, 0xF015⟩ (by decide) rfl (encXKK_class_low _ _ _) (BitVec.and_zero)

theorem EncodedWord.ldStVx (x : Reg) : EncodedWord.Statement (.ldStVx x) :=
  encodedWord_of_row ⟨"LD_ST_VX", 0xF0FF, 0xF018⟩ (by decide) rfl (encXKK_class_low _ _ _) (BitVec.and_zero)

theorem EncodedWord.addIVx (x : Reg) : EncodedWord.Statement (.addIVx x) :=
  encodedWord_of_row ⟨"ADD_I_VX", 0xF0FF, 0xF01E⟩ (by decide) rfl (encXKK_class_low _ _ _) (BitVec.and_zero)

theorem EncodedWord.ldFVx (x : Reg) : EncodedWord.Statement (.ldFVx x) :=
  encodedWord_of_row ⟨"LD_F_VX", 0xF0FF, 0xF029⟩ (by decide) rfl (encXKK_class_low _ _ _) (BitVec.and_zero)

theorem EncodedWord.ldBVx (x : Reg) : EncodedWord.Statement (.ldBVx x) :=
  encodedWord_of_row ⟨"LD_B_VX", 0xF0FF, 0xF033⟩ (by decide) rfl (encXKK_class_low _ _ _) (BitVec.and_zero)

theorem EncodedWord.ldMemVx (x : Reg) : EncodedWord.Statement (.ldMemVx x) :=
  encodedWord_of_row ⟨"LD_MEM_VX", 0xF0FF, 0xF055⟩ (by decide) rfl (encXKK_class_low _ _ _) (BitVec.and_zero)

theorem EncodedWord.ldVxMem (x : Reg) : EncodedWord.Statement (.ldVxMem x) :=
  encodedWord_of_row ⟨"LD_VX_MEM", 0xF0FF, 0xF065⟩ (by decide) rfl (encXKK_class_low _ _ _) (BitVec.and_zero)

end Sys2Proof.Laws
end

