-- ==== Sys2Proof/Tests/Slice0.lean ====
section
/-!
SUPPORT. The model's own tests: expected values from the spec's encodings and from spec/95_test_vectors.md, one step each;
the checks of WellFormed.lean on words they must refuse; and for every statement with hypotheses a state that meets them.
-/
namespace Sys2Proof.Tests

open Sys2Proof Sys2Proof.Machine

/-- The reset state with a word at 0x200 and the given registers. -/
def start (w : Word) (rs : List (Reg × Byte)) : State :=
  rs.foldl (fun s p => s.setReg p.1 p.2) (State.reset.placeWord w)

/-- What is seen of the next state. -/
def see {α : Type} (f : State → α) : Answer → Option α
  | .next t => some (f t)
  | _ => none

/-! ## Well-formed words -/

theorem test_illegal_word_refused : wellFormedWord 0x0000 = false ∧ legalWord 0x0000 = false := by decide
theorem test_ignored_bits_refused : wellFormedWord 0x01E0 = false ∧ legalWord 0x01E0 = true := by decide
theorem test_ignored_nibble_refused : wellFormedWord 0x5121 = false ∧ wellFormedWord 0x5120 = true := by decide
theorem test_ignored_y_refused : wellFormedWord 0x81E6 = false ∧ wellFormedWord 0x8106 = true := by decide

/-! ## Decoding: words written out from the encodings of spec/30_encoding.md R51 to R56 -/

theorem test_decode_class0 : decode 0b0000_0000_1110_0000 = .op .cls ∧ decode 0b0000_0000_1110_1110 = .op .ret := by decide
theorem test_decode_jumps : decode 0b0001_0010_0011_0100 = .op (.jp 0x234) ∧
    decode 0b0010_0011_0000_0000 = .op (.call 0x300) ∧ decode 0b1011_1111_1111_1111 = .op (.jpV0 0xFFF) := by decide
theorem test_decode_skips : decode 0b0011_0011_0001_0010 = .op (.seImm 3 0x12) ∧
    decode 0b0100_0011_0001_0010 = .op (.sneImm 3 0x12) ∧ decode 0b0101_0001_0010_0111 = .op (.seReg 1 2) ∧
    decode 0b1001_0001_0010_1111 = .op (.sneReg 1 2) := by decide
theorem test_decode_immediate : decode 0b0110_0000_0000_1010 = .op (.ldImm 0 10) ∧
    decode 0b0111_0010_0000_0011 = .op (.addImm 2 3) ∧ decode 0b1100_0011_0000_1111 = .op (.rnd 3 0x0F) := by decide
theorem test_decode_class8 : decode 0b1000_0001_0101_0000 = .op (.ldReg 1 5) ∧
    decode 0b1000_0001_0010_0001 = .op (.or 1 2) ∧ decode 0b1000_0001_0010_0010 = .op (.and 1 2) ∧
    decode 0b1000_0001_0010_0011 = .op (.xor 1 2) ∧ decode 0b1000_0000_0001_0100 = .op (.addReg 0 1) ∧
    decode 0b1000_0001_0010_0101 = .op (.sub 1 2) ∧ decode 0b1000_0100_0000_0110 = .op (.shr 4) ∧
    decode 0b1000_0001_0010_0111 = .op (.subn 1 2) ∧ decode 0b1000_0100_0000_1110 = .op (.shl 4) ∧
    decode 0b1000_0001_0010_1000 = .unknown := by decide
theorem test_decode_index : decode 0b1010_0010_1111_0000 = .op (.ldI 0x2F0) ∧
    decode 0b1111_0010_0001_1110 = .op (.addIVx 2) ∧ decode 0b1111_0001_0010_1001 = .op (.ldFVx 1) ∧
    decode 0b1111_0011_0011_0011 = .op (.ldBVx 3) ∧ decode 0b1111_0010_0101_0101 = .op (.ldMemVx 2) ∧
    decode 0b1111_0010_0110_0101 = .op (.ldVxMem 2) := by decide
theorem test_decode_display : decode 0b1101_0000_0001_0101 = .op (.drw 0 1 5) := by decide
theorem test_decode_keys_timers : decode 0b1110_0010_1001_1110 = .op (.skp 2) ∧
    decode 0b1110_0010_1010_0001 = .op (.sknp 2) ∧ decode 0b1111_0100_0000_0111 = .op (.ldVxDt 4) ∧
    decode 0b1111_0101_0000_1010 = .op (.ldVxK 5) ∧ decode 0b1111_0001_0001_0101 = .op (.ldDtVx 1) ∧
    decode 0b1111_0001_0001_1000 = .op (.ldStVx 1) ∧ decode 0b1111_0000_1111_1111 = .unknown := by decide
theorem test_encode_words : encode (.drw 0 1 5) = 0xD015 ∧ encode (.call 0x300) = 0x2300 ∧
    encode (.addReg 0 1) = 0x8014 ∧ encode (.ldImm 0 10) = 0x600A ∧ encode .cls = 0x00E0 := by decide
theorem test_table_word : decodeTableWord 16 0x600A = some (.ldImm 0 10) ∧ decodeTableWord 16 0x0000 = none := by decide
theorem test_placed_word_is_fetched : (State.reset.withFetchWord 16 0x600A).fetch = some 0x600A := by decide

/-! ## The engine (95_test_vectors.md 2.1) -/

theorem test_unknown_word_faults :
    see (fun t => (t.ir, t.pc, t.execEnabled, t.lastError)) (step (start 0xF0FF [])) =
      some (0xF0FF, 0x200, false, some .unknownOpcode) := by decide
theorem test_fetch_at_top_faults :
    see (fun t => (t.ir, t.pc, t.lastError)) (step { State.reset with pc := 0xFFF }) =
      some (0, 0xFFF, some .addressOutOfRange) := by decide
theorem test_odd_pc_fetches :
    see (fun t => (t.reg 0xA, t.pc)) (step ({ State.reset with pc := 0x201 }.placeWord 0x6A07)) =
      some (7, 0x203) := by decide
theorem test_step_results :
    response (.step 0) (start 0xF50A []) = .stepped .keyWait ∧ response (.step 0) (start 0x600A []) = .stepped .executed ∧
    response (.step 0) (start 0x00EE []) = .stepped (.fault .stackUnderflow) ∧
    response (.step 0) { State.reset with execEnabled := false } = .stepped .halted := by decide

/-! ## Control transfer (2.2) -/

theorem test_ret : see (fun t => (t.sp.val, t.pc))
    (step { start 0x00EE [] with sp := 1, stack := State.reset.stack.set 0 0x204 }) = some (0, 0x206) := by decide
theorem test_ret_empty : see (fun t => (t.pc, t.execEnabled, t.lastError)) (step (start 0x00EE [])) =
    some (0x200, false, some .stackUnderflow) := by decide
theorem test_jp : see (fun t => t.pc) (step (start 0x1234 [])) = some 0x234 := by decide
theorem test_call : see (fun t => (t.stack[0], t.sp.val, t.pc)) (step (start 0x2300 [])) =
    some (0x200, 1, 0x300) := by decide
theorem test_call_full : see (fun t => (t.sp.val, t.pc, t.lastError)) (step { start 0x2300 [] with sp := 16 }) =
    some (16, 0x200, some .stackOverflow) := by decide
theorem test_se_imm : see (fun t => t.pc) (step (start 0x3312 [(3, 0x12)])) = some 0x204 ∧
    see (fun t => t.pc) (step (start 0x3313 [(3, 0x12)])) = some 0x202 := by decide
theorem test_sne_imm : see (fun t => t.pc) (step (start 0x4312 [(3, 0x12)])) = some 0x202 ∧
    see (fun t => t.pc) (step (start 0x4300 [(3, 0x12)])) = some 0x204 := by decide
theorem test_se_reg : see (fun t => t.pc) (step (start 0x5127 [(1, 7), (2, 7)])) = some 0x204 ∧
    see (fun t => t.pc) (step (start 0x5120 [(1, 7), (2, 8)])) = some 0x202 := by decide
theorem test_sne_reg : see (fun t => t.pc) (step (start 0x912F [(1, 7), (2, 8)])) = some 0x204 ∧
    see (fun t => t.pc) (step (start 0x9110 [(1, 7)])) = some 0x202 := by decide
theorem test_jp_v0 : see (fun t => t.pc) (step (start 0xBFFF [(0, 0xFF)])) = some 0x10FE ∧
    see (fun t => t.pc) (step (start 0xB201 [])) = some 0x201 := by decide

/-! ## Arithmetic and logic (2.3) -/

theorem test_ld_imm : see (fun t => (t.reg 15, t.pc)) (step (start 0x6F55 [])) = some (0x55, 0x202) := by decide
theorem test_add_imm : see (fun t => (t.reg 1, t.reg 15)) (step (start 0x71FF [(1, 1), (15, 7)])) = some (0, 7) := by decide
theorem test_ld_reg : see (fun t => t.reg 1) (step (start 0x8120 [(2, 0x42)])) = some 0x42 := by decide
theorem test_or : see (fun t => (t.reg 1, t.reg 15)) (step (start 0x8121 [(1, 0xA5), (2, 0x0F), (15, 7)])) =
    some (0xAF, 7) := by decide
theorem test_and : see (fun t => (t.reg 1, t.reg 15)) (step (start 0x8122 [(1, 0xA5), (2, 0x0F), (15, 7)])) =
    some (0x05, 7) := by decide
theorem test_xor : see (fun t => (t.reg 1, t.reg 15)) (step (start 0x8123 [(1, 0xA5), (2, 0x0F), (15, 7)])) =
    some (0xAA, 7) := by decide
theorem test_add_reg : see (fun t => (t.reg 1, t.reg 15)) (step (start 0x8124 [(1, 0x80), (2, 0x80)])) = some (0, 1) ∧
    see (fun t => (t.reg 1, t.reg 15)) (step (start 0x8124 [(1, 0xFE), (2, 1)])) = some (0xFF, 0) := by decide
theorem test_add_reg_vf : see (fun t => t.reg 15) (step (start 0x8F14 [(1, 0xFF)])) = some 0xFF ∧
    see (fun t => (t.reg 1, t.reg 15)) (step (start 0x81F4 [(1, 0xFF), (15, 1)])) = some (0, 1) := by decide
theorem test_sub : see (fun t => (t.reg 1, t.reg 15)) (step (start 0x8125 [(1, 5), (2, 5)])) = some (0, 0) ∧
    see (fun t => (t.reg 1, t.reg 15)) (step (start 0x8125 [(1, 5), (2, 3)])) = some (2, 1) := by decide
theorem test_sub_borrow : see (fun t => (t.reg 1, t.reg 15)) (step (start 0x8125 [(1, 3), (2, 5)])) = some (0xFE, 0) ∧
    see (fun t => t.reg 15) (step (start 0x8F25 [(15, 9), (2, 3)])) = some 6 := by decide
theorem test_subn : see (fun t => (t.reg 1, t.reg 15)) (step (start 0x8127 [(1, 3), (2, 5)])) = some (2, 1) ∧
    see (fun t => (t.reg 1, t.reg 15)) (step (start 0x8127 [(1, 5), (2, 3)])) = some (0xFE, 0) := by decide
theorem test_shr : see (fun t => (t.reg 1, t.reg 15)) (step (start 0x81E6 [(1, 4), (14, 0xFF)])) = some (2, 0) ∧
    see (fun t => t.reg 15) (step (start 0x8F06 [(15, 3)])) = some 1 := by decide
theorem test_shl : see (fun t => (t.reg 1, t.reg 15)) (step (start 0x810E [(1, 0x80)])) = some (0, 1) ∧
    see (fun t => t.reg 15) (step (start 0x8F0E [(15, 0xC1)])) = some 0x82 := by decide
theorem test_rnd : see (fun t => t.reg 3) (transact (.step 0xA7) (start 0xC30F [])) = some 7 ∧
    see (fun t => t.reg 3) (transact (.step 0xFF) (start 0xC300 [])) = some 0 := by decide

/-! ## Index register and memory (2.4) -/

theorem test_ld_i : see (fun t => t.i) (step (start 0xA2F0 [])) = some 0x2F0 := by decide
theorem test_add_i : see (fun t => (t.i, t.reg 15)) (step { start 0xF21E [(2, 0xFF), (15, 9)] with i := 0xFFFF }) =
    some (0x00FE, 9) := by decide
theorem test_ld_f : see (fun t => t.i) (step (start 0xF129 [(1, 0x0A)])) = some 0x032 ∧
    see (fun t => t.i) (step (start 0xF129 [(1, 0xFF)])) = some 0x4FB := by decide
theorem test_ld_b : see (fun t => (t.readByte 0xFFD, t.readByte 0xFFE, t.readByte 0xFFF))
    (step { start 0xF333 [(3, 0xC8)] with i := 0xFFD }) = some (2, 0, 0) := by decide
theorem test_ld_b_range : see (fun t => (t.readByte 0xFFE, t.lastError))
    (step { start 0xF333 [(3, 0xC8)] with i := 0xFFE }) = some (0, some .addressOutOfRange) := by decide
theorem test_ld_mem_vx : see (fun t => (t.readByte 0x300, t.readByte 0x302, t.readByte 0x303, t.i))
    (step { start 0xF255 [(0, 1), (1, 2), (2, 3), (3, 9)] with i := 0x300 }) = some (1, 3, 0, 0x303) := by decide
theorem test_ld_mem_vx_range : see (fun t => (t.readByte 0xFFF, t.i))
    (step { start 0xF055 [(0, 9)] with i := 0xFFF }) = some (9, 0x1000) ∧
    see (fun t => (t.readByte 0xFFF, t.i, t.execEnabled))
      (step { start 0xF155 [(0, 9)] with i := 0xFFF }) = some (0, 0xFFF, false) := by decide
theorem test_ld_vx_mem : see (fun t => (t.reg 0, t.reg 1, t.reg 2, t.reg 3, t.i))
    (step { (start 0xF265 [(3, 7)]).writeBytes 0x300 [1, 2, 3, 4] with i := 0x300 }) =
      some (1, 2, 3, 7, 0x303) := by decide

/-! ## Display (2.5) -/

/-- The cells of a row that are on. -/
def onIn (t : State) (r : Fin 32) : List Nat := ((List.finRange 64).filter fun c => t.fb.get (r, c)).map Fin.val

theorem test_cls : see (fun t => (t.fb.get (3, 4), t.fbChanged, t.reg 15))
    (step { start 0x00E0 [(15, 7)] with fb := Framebuffer.blank.flip (3, 4) }) = some (false, true, 7) := by decide
theorem test_drw_glyph : see (fun t => (onIn t 0, onIn t 1, onIn t 5, t.reg 15, t.fbChanged)) (step (start 0xD015 [])) =
      some ([0, 1, 2, 3], [0, 3], [], 0, true) ∧
    see (fun t => (t.fb.get (0, 0), t.fb.get (0, 1), t.reg 15))
      (step { start 0xD015 [] with fb := Framebuffer.blank.flip (0, 0) }) = some (false, true, 1) := by decide
theorem test_drw_edges :
    see (fun t => (onIn t 30, onIn t 31, onIn t 2, t.reg 15)) (step (start 0xD015 [(0, 0x3E), (1, 0x1E)])) =
      some ([0, 1, 62, 63], [1, 62], [0, 1, 62, 63], 0) ∧
    see (fun t => (onIn t 30, onIn t 31, onIn t 2)) (step { start 0xD015 [(0, 0x3E), (1, 0x1E)] with
      params := { font := defaultFont, drawEdge := .clip } }) = some ([62, 63], [62], []) ∧
    see (fun t => (onIn t 30, t.lastError)) (step { start 0xD015 [(0, 0x3E), (1, 0x1E)] with
      params := { font := defaultFont, drawEdge := .fault } }) = some ([], some .framebufferOutOfBounds) := by decide

/-! ## Keys and timers (2.6) -/

theorem test_skp : see (fun t => t.pc) (step ((start 0xE29E [(2, 5)]).setKey 5 true)) = some 0x204 ∧
    see (fun t => (t.pc, t.lastError)) (step (start 0xE29E [(2, 0x10)])) =
      some (0x200, some .keyIndexOutOfRange) := by decide
theorem test_sknp : see (fun t => t.pc) (step ((start 0xE2A1 [(2, 5)]).setKey 5 true)) = some 0x202 ∧
    see (fun t => t.pc) (step (start 0xE2A1 [(2, 5)])) = some 0x204 := by decide
theorem test_ld_vx_k : see (fun t => (t.reg 5, t.keyCaptured, t.pc))
    (step (((start 0xF50A []).setKey 3 true).setKey 9 true)) = some (9, true, 0x202) := by decide
theorem test_ld_vx_k_waits : see (fun t => (t.keyCaptured, t.pc)) (step (start 0xF50A [])) = some (false, 0x200) := by decide
theorem test_ld_vx_dt : see (fun t => t.reg 4) (step { start 0xF407 [] with dt := 0x3C }) = some 0x3C := by decide
theorem test_ld_dt_vx : see (fun t => (t.dt, t.st)) (step (start 0xF115 [(1, 0x3C)])) = some (0x3C, 0) := by decide
theorem test_ld_st_vx : see (fun t => (t.dt, t.st)) (step (start 0xF118 [(1, 5)])) = some (0, 5) := by decide
theorem test_tick : see (fun t => (t.dt, t.st)) (transact .tick { State.reset with dt := 1, execEnabled := false }) =
    some (0, 0) := by decide
theorem test_load : see (fun t => (t.readByte 0x200, t.readByte 0x201, t.pc)) (transact (.load (some [0x60, 0x0A])) State.reset) =
    some (0x60, 0x0A, 0x200) := by decide
theorem test_soft_reset_keeps_program :
    see (fun t => (t.readByte 0x300, t.readByte 0x1FF, t.readByte 0, t.execEnabled))
      (transact .softReset { State.reset.writeBytes 0x1FF [7, 0x60] |>.writeBytes 0x300 [9] |>.writeBytes 0 [1] with
        execEnabled := false }) = some (9, 0, 0xF0, true) := by decide

/-! ## Witnesses: a state that meets the hypotheses of each statement that has some -/

theorem witness_decodes : decode 0x00E0 = .op .cls := by decide
theorem witness_step_runs : (start 0x8014 []).Running ∧ InSpace (start 0x8014 []).pc.toNat 2 ∧
    decode ((start 0x8014 []).readByte (start 0x8014 []).pc.toNat ++
      (start 0x8014 []).readByte ((start 0x8014 []).pc.toNat + 1)) = .op (.addReg 0 1) := by decide
theorem witness_fetch_outside : { State.reset with pc := 0xFFF }.Running ∧
    ¬ InSpace ({ State.reset with pc := 0xFFF } : State).pc.toNat 2 := by decide
theorem witness_fetch_top : InSpace ({ State.reset with pc := 0xFFE } : State).pc.toNat 2 := by decide
theorem witness_unknown_word : State.reset.Running ∧ InSpace State.reset.pc.toNat 2 ∧
    decode (State.reset.readByte State.reset.pc.toNat ++ State.reset.readByte (State.reset.pc.toNat + 1)) =
      .unknown := by decide
theorem witness_halted : ({ State.reset with execEnabled := false } : State).execEnabled = false := rfl
theorem witness_faulting_step : State.reset.Running ∧
    see (fun t => t.execEnabled) (step State.reset) = some false := by decide
theorem witness_reported_steps :
    see (fun t => t.execEnabled) (transact (.step 0) State.reset) = some false ∧
    see (fun t => t.execEnabled) (transact (.step 0) (start 0xF50A [])) = some true ∧
    decode ((start 0xF50A []).readByte 0x200 ++ (start 0xF50A []).readByte 0x201) = .op (.ldVxK 5) ∧
    (∀ k : Key, (start 0xF50A []).key[k] = false) ∧
    see (fun t => t.execEnabled) (transact (.step 0) (start 0x600A [])) = some true ∧
    decode ((start 0x600A []).readByte 0x200 ++ (start 0x600A []).readByte 0x201) = .op (.ldImm 0 10) := by decide
theorem witness_self_jump : (start 0x1200 []).Running ∧ InSpace (start 0x1200 []).pc.toNat 2 ∧
    decode ((start 0x1200 []).readByte (start 0x1200 []).pc.toNat ++
      (start 0x1200 []).readByte ((start 0x1200 []).pc.toNat + 1)) = .op (.jp 0x200) ∧
    (0x200 : BitVec 12).toNat = (start 0x1200 []).pc.toNat := by decide
theorem witness_key_wait_in_place : (start 0xF50A []).Running ∧ InSpace (start 0xF50A []).pc.toNat 2 ∧
    decode ((start 0xF50A []).readByte (start 0xF50A []).pc.toNat ++
      (start 0xF50A []).readByte ((start 0xF50A []).pc.toNat + 1)) = .op (.ldVxK 5) ∧
    ∀ j : Key, (start 0xF50A []).key[j] = false := by decide
theorem witness_return : (15 : Fin 16).val + 1 = ({ State.reset with sp := 16 } : State).sp.val ∧
    (0 : Fin 16).val + 1 = ({ State.reset with sp := 1 } : State).sp.val ∧ State.reset.sp = 0 := by decide
theorem witness_call : ({ State.reset with sp := 15 } : State).sp.val < 16 ∧
    ({ State.reset with sp := 16 } : State).sp.val = 16 := by decide
theorem witness_call_return : ∃ t u : State, State.reset.sp.val < 16 ∧ exec (.call 0x300) State.reset = .next t ∧
    u.sp = t.sp ∧ ∀ k : Fin 16, k.val = State.reset.sp.val → u.stack[k] = t.stack[k] :=
  ⟨_, _, by decide, rfl, rfl, fun _ _ => rfl⟩
theorem witness_skips : State.reset.reg 3 = 0 ∧ State.reset.reg 3 ≠ 1 := by decide
theorem witness_register_skips : (start 0 [(1, 7)]).reg 1 = (start 0 [(1, 7)]).reg 1 ∧
    (start 0 [(1, 7)]).reg 1 ≠ (start 0 [(1, 7)]).reg 2 := by decide
theorem witness_flag_kept : (1 : Reg) ≠ 15 := by decide
theorem witness_bcd : ({ State.reset with i := 0xFFD } : State).i.toNat + 2 ≤ 0xFFF ∧
    ({ State.reset with i := 0xFFE } : State).i.toNat + 2 > 0xFFF := by decide
theorem witness_block : ({ State.reset with i := 0xFF0 } : State).i.toNat + (15 : Reg).val ≤ 0xFFF ∧
    ({ State.reset with i := 0xFF1 } : State).i.toNat + (15 : Reg).val > 0xFFF := by decide
theorem witness_store_then_load : State.reset.i.toNat + (2 : Reg).val ≤ 0xFFF ∧
    ∃ t, exec (.ldMemVx 2) State.reset = .next t := ⟨by decide, _, rfl⟩
theorem witness_draw_runs : State.reset.DrawRuns 0 1 5 := ⟨by decide, fun h => absurd h.1 (by decide)⟩
theorem witness_draw_runs_at_top : ({ State.reset with i := 0xFFFF } : State).DrawRuns 0 1 0 :=
  ⟨by decide, fun h => absurd h.1 (by decide)⟩
/-- A state with the cell (0, 0) on, which glyph 0 covers. -/
def litCorner : State := { State.reset with fb := Framebuffer.blank.flip (0, 0) }

theorem witness_covered : State.reset.SpriteCovers 0 1 5 (0, 0) := ⟨0, 0, by decide, rfl, rfl⟩
theorem witness_covered_cell_on : litCorner.DrawRuns 0 1 5 ∧ litCorner.SpriteCovers 0 1 5 (0, 0) ∧
    (litCorner.fb[(0 : Fin 32)])[(0 : Fin 64)] = true :=
  ⟨⟨by decide, fun h => absurd h.1 (by decide)⟩, ⟨0, 0, by decide, rfl, rfl⟩, by decide⟩
theorem witness_not_covered : ¬ State.reset.SpriteCovers 0 1 0 (0, 0) :=
  fun ⟨_, _, h, _⟩ => Nat.not_lt_zero _ h.1
theorem witness_draw_address_fault : ¬ InSpace ({ State.reset with i := 0xFFF } : State).i.toNat (2 : Fin 16).val := by decide

/-- A state whose glyph 0 reaches past the right edge under `DRAW_EDGE = Fault`. -/
def offEdge : State :=
  { start 0 [(0, 0x3E)] with params := { font := defaultFont, drawEdge := .fault } }

theorem witness_draw_edge_fault : InSpace offEdge.i.toNat (1 : Fin 16).val ∧ offEdge.params.drawEdge = .fault ∧
    offEdge.SpriteLeavesGrid 0 1 1 := ⟨by decide, rfl, 0, 2, by decide, .inl (by decide)⟩
theorem witness_draw_twice : (0 : Reg) ≠ 15 ∧ (1 : Reg) ≠ 15 ∧ State.reset.DrawRuns 0 1 5 :=
  ⟨by decide, by decide, witness_draw_runs⟩
theorem witness_keys : ((start 0 [(2, 15)]).reg 2).toNat = (15 : Key).val ∧ ((start 0 [(2, 0)]).reg 2).toNat = (0 : Key).val ∧
    ((start 0 [(2, 16)]).reg 2).toNat > 15 := by decide
theorem witness_key_wait : (∀ k : Key, State.reset.key[k] = false) ∧
    (State.reset.setKey 15 true).key[(15 : Key)] = true ∧ (∀ j : Key, 15 < j → (State.reset.setKey 15 true).key[j] = false) ∧
    (State.reset.setKey 0 true).key[(0 : Key)] = true ∧
    (∀ j : Key, 0 < j → (State.reset.setKey 0 true).key[j] = false) := by decide
theorem witness_exec_answers : ∃ t, exec (.ldImm 1 7) State.reset = .next t := ⟨_, rfl⟩
theorem witness_not_a_store : (∀ x, Instr.ldImm 1 7 ≠ .ldBVx x) ∧ (∀ x, Instr.ldImm 1 7 ≠ .ldMemVx x) := by decide
theorem witness_not_a_call : Instr.ldImm 1 7 ≠ .ret ∧ ∀ nnn, Instr.ldImm 1 7 ≠ .call nnn :=
  ⟨by decide, fun _ h => nomatch h⟩
theorem witness_not_a_draw : Instr.ldImm 1 7 ≠ .cls ∧ (∀ x y n, Instr.ldImm 1 7 ≠ .drw x y n) ∧
    ∃ t, exec (.ldImm 1 7) { State.reset with fbChanged := true } = .next t :=
  ⟨by decide, (fun _ _ _ h => nomatch h), _, rfl⟩
theorem witness_not_an_index_write : (∀ x, Instr.ldImm 1 7 ≠ .ldDtVx x) ∧ (∀ x, Instr.ldImm 1 7 ≠ .ldStVx x) ∧
    (∀ nnn, Instr.ldImm 1 7 ≠ .ldI nnn) ∧ (∀ x, Instr.ldImm 1 7 ≠ .addIVx x ∧ Instr.ldImm 1 7 ≠ .ldFVx x ∧
      Instr.ldImm 1 7 ≠ .ldMemVx x ∧ Instr.ldImm 1 7 ≠ .ldVxMem x) :=
  ⟨(fun _ h => nomatch h), (fun _ h => nomatch h), (fun _ h => nomatch h),
    fun _ => ⟨(fun h => nomatch h), (fun h => nomatch h), (fun h => nomatch h), fun h => nomatch h⟩⟩
theorem witness_register_not_written : (2 : Reg) ∉ regsWritten (.ldImm 1 7) := by decide
theorem witness_control_state_differs : ∃ (s s' t t' : State), s ≠ s' ∧
    s' = { s with ir := s'.ir, execEnabled := s'.execEnabled, fbChanged := s'.fbChanged, paused := s'.paused,
                  keyCaptured := s'.keyCaptured, lastError := s'.lastError } ∧
    exec (.ldImm 1 7) s = .next t ∧ exec (.ldImm 1 7) s' = .next t' :=
  ⟨State.reset, { State.reset with paused := true }, _, _, (fun h => nomatch congrArg State.paused h), rfl, rfl, rfl⟩
theorem witness_restart : ∃ t, transact .hardReset { State.reset with execEnabled := false } = .next t ∧
    t.execEnabled = true := ⟨_, rfl, rfl⟩
theorem witness_write_at_top : (0xFFF : Nat) ≤ 0xFFF := by decide
theorem witness_canonical_memory : Memory.wf defaultFont [(0x300, 1)] ∧ Memory.wf defaultFont [(0, 1), (0xFFF, 2)] := by decide
theorem witness_tick : ({ State.reset with dt := 1, st := 255 } : State).dt.toNat > 0 ∧
    ({ State.reset with dt := 1, st := 255 } : State).st.toNat > 0 ∧ State.reset.dt = 0 ∧ State.reset.st = 0 := by decide
theorem witness_load : (List.replicate 0xDFF (0 : Byte)).length ≤ 0xDFF ∧ (List.replicate 0xE00 (0 : Byte)).length > 0xDFF ∧
    ([0x60, 0x0A] : List Byte)[1]? = some 0x0A := by
  refine ⟨?_, ?_, rfl⟩ <;> simp only [List.length_replicate] <;> decide
theorem witness_reset_addresses : (79 < 80) ∧ (0x50 ≤ 80 ∧ 80 < 0x200) ∧ (0x50 ≤ 0x1FF ∧ 0x1FF < 0x200) ∧ 0x200 ≤ 0x200 := by decide
theorem witness_reset_parameters : State.reset.params = State.reset.params ∧
    State.reset.rndCount = State.reset.rndCount := ⟨rfl, rfl⟩
theorem witness_invariant : (start 0x2300 []).Inv ∧ (∃ t, step (start 0x2300 []) = .next t) ∧
    ∃ t, transactAll [.tick, .step 0, .softReset] (start 0x2300 []) = .next t :=
  ⟨⟨by decide, by decide, by decide⟩, ⟨_, rfl⟩, _, rfl⟩

end Sys2Proof.Tests
end

section
/-!
SUPPORT. For each instruction whose meaning branches, one lemma that says what it can answer, with the condition of each
branch (spec sections 40, 42, 43, 44). A proof about all instructions cites these; the other instructions have one answer.
-/
namespace Sys2Proof.Machine

variable (s : State)

/-- RET returns to the popped address plus 2, or finds no occupied slot (R63). -/
theorem execRet_cases :
    (s.sp = 0 ∧ execRet s = raise .stackUnderflow s) ∨
    ∃ k : Fin 16, k.val + 1 = s.sp.val ∧
      execRet s = .next { s with sp := ⟨k.val, by have := k.isLt; omega⟩, pc := s.stack[k] + 2 } := by
  rcases s.pop_cases with ⟨h0, hp⟩ | ⟨k, hk, hp⟩
  · exact .inl ⟨h0, by rw [execRet, hp]⟩
  · exact .inr ⟨k, hk, by rw [execRet, hp]; rfl⟩

/-- CALL pushes its own address and jumps, or finds no free slot (R65). -/
theorem execCall_cases (nnn : BitVec 12) :
    (s.sp.val = 16 ∧ execCall nnn s = raise .stackOverflow s) ∨
    ∃ h : s.sp.val < 16,
      execCall nnn s = .next { s with
        stack := s.stack.set s.sp.val s.pc, sp := ⟨s.sp.val + 1, Nat.succ_lt_succ h⟩, pc := addressOf nnn } := by
  rcases s.push_cases s.pc with ⟨h16, hp⟩ | ⟨h, hp⟩
  · exact .inl ⟨h16, by rw [execCall, hp]⟩
  · exact .inr ⟨h, by rw [execCall, hp]; rfl⟩

/-- DRW checks its sprite's addresses, then the edge under `Fault`, and only then draws (R95, R111). -/
theorem execDrw_cases (x y : Reg) (n : Fin 16) :
    (¬ InSpace s.i.toNat n.val ∧ execDrw x y n s = raise .addressOutOfRange s) ∨
    (InSpace s.i.toNat n.val ∧ (s.params.drawEdge = .fault ∧ (s.drawnPixels x y n).any offGrid) ∧
      execDrw x y n s = raise .framebufferOutOfBounds s) ∨
    (InSpace s.i.toNat n.val ∧ ¬ (s.params.drawEdge = .fault ∧ (s.drawnPixels x y n).any offGrid) ∧
      execDrw x y n s = .next { s with
        fb := (s.drawScan x y n).1, fbChanged := true, v := s.v.set vF (flagByte (s.drawScan x y n).2),
        pc := s.pc + 2 }) := by
  have hr := inRange_iff (s.dataAddress 0) n.val
  by_cases hin : InSpace s.i.toNat n.val
  · by_cases hedge : s.params.drawEdge = .fault ∧ (s.drawnPixels x y n).any offGrid
    · exact .inr (.inl ⟨hin, hedge, by rw [execDrw, if_pos (hr.mpr hin), if_pos hedge]⟩)
    · exact .inr (.inr ⟨hin, hedge, by rw [execDrw, if_pos (hr.mpr hin), if_neg hedge]; rfl⟩)
  · exact .inl ⟨hin, by rw [execDrw, if_neg (mt hr.mp hin)]⟩

/-- LD B, Vx stores the three digits, or one of the three addresses is outside memory (R91). -/
theorem execLdBVx_cases (x : Reg) :
    (¬ InSpace s.i.toNat 3 ∧ execLdBVx x s = raise .addressOutOfRange s) ∨
    (InSpace s.i.toNat 3 ∧
      execLdBVx x s = .next { s.writeBytes s.i.toNat (bcdDigits (s.reg x)) with pc := s.pc + 2 }) := by
  have hr := inRange_iff (s.dataAddress 0) 3
  by_cases hin : InSpace s.i.toNat 3
  · exact .inr ⟨hin, if_pos (hr.mpr hin)⟩
  · exact .inl ⟨hin, if_neg (mt hr.mp hin)⟩

/-- LD [I], Vx stores the block and moves `I` past it, or the block leaves memory (R92). -/
theorem execLdMemVx_cases (x : Reg) :
    (¬ InSpace s.i.toNat (x.val + 1) ∧ execLdMemVx x s = raise .addressOutOfRange s) ∨
    (InSpace s.i.toNat (x.val + 1) ∧
      execLdMemVx x s = .next { s.writeBytes s.i.toNat (s.regsUpTo x) with
        i := s.indexPast x, pc := s.pc + 2 }) := by
  have hr := inRange_iff (s.dataAddress 0) (x.val + 1)
  by_cases hin : InSpace s.i.toNat (x.val + 1)
  · exact .inr ⟨hin, if_pos (hr.mpr hin)⟩
  · exact .inl ⟨hin, if_neg (mt hr.mp hin)⟩

/-- LD Vx, [I] loads the registers and moves `I` past the block, or the block leaves memory (R93). -/
theorem execLdVxMem_cases (x : Reg) :
    (¬ InSpace s.i.toNat (x.val + 1) ∧ execLdVxMem x s = raise .addressOutOfRange s) ∨
    (InSpace s.i.toNat (x.val + 1) ∧
      execLdVxMem x s = .next { s with v := s.regsFromMem x, i := s.indexPast x, pc := s.pc + 2 }) := by
  have hr := inRange_iff (s.dataAddress 0) (x.val + 1)
  by_cases hin : InSpace s.i.toNat (x.val + 1)
  · exact .inr ⟨hin, if_pos (hr.mpr hin)⟩
  · exact .inl ⟨hin, if_neg (mt hr.mp hin)⟩

/-- SKP skips on the key the register names, or the register names none (R99). -/
theorem execSkp_cases (x : Reg) :
    (15 < (s.reg x).toNat ∧ execSkp x s = raise .keyIndexOutOfRange s) ∨
    ∃ k : Key, (s.reg x).toNat = k.val ∧ execSkp x s = .next (s.skipIf s.key[k]) := by
  cases hk : keyIndex (s.reg x) with
  | none => exact .inl ⟨(keyIndex_eq_none _).mp hk, by rw [execSkp, hk]⟩
  | some k => exact .inr ⟨k, (keyIndex_eq_some _ k).mp hk, by rw [execSkp, hk]; rfl⟩

/-- SKNP skips on the key the register names being up, or the register names none (R100). -/
theorem execSknp_cases (x : Reg) :
    (15 < (s.reg x).toNat ∧ execSknp x s = raise .keyIndexOutOfRange s) ∨
    ∃ k : Key, (s.reg x).toNat = k.val ∧ execSknp x s = .next (s.skipIf (!s.key[k])) := by
  cases hk : keyIndex (s.reg x) with
  | none => exact .inl ⟨(keyIndex_eq_none _).mp hk, by rw [execSknp, hk]⟩
  | some k => exact .inr ⟨k, (keyIndex_eq_some _ k).mp hk, by rw [execSknp, hk]; rfl⟩

/-- LD Vx, K takes the highest key down, or waits in place while none is (R102). -/
theorem execLdVxK_cases (x : Reg) :
    ((∀ k : Key, s.key[k] = false) ∧ execLdVxK x s = .next s) ∨
    ∃ k : Key, (s.key[k] = true ∧ ∀ j : Key, k < j → s.key[j] = false) ∧
      execLdVxK x s = .next { s with
        keyCaptured := true, v := s.v.set x (BitVec.ofNat 8 k.val), pc := s.pc + 2 } := by
  cases hk : s.lastKeyDown with
  | none => exact .inl ⟨s.lastKeyDown_eq_none.mp hk, by rw [execLdVxK, hk]⟩
  | some k => exact .inr ⟨k, (s.lastKeyDown_eq_some k).mp hk, by rw [execLdVxK, hk]; rfl⟩

end Sys2Proof.Machine
end

section
/-!
SUPPORT. Host state: what every instruction leaves to the host, and O48 from it.
-/
namespace Sys2Proof.Machine

/-- From `s` to `t` an instruction completed: it wrote nothing that the host or the fault procedure writes, and it can
only set `key_captured`. -/
structure State.Completed (s t : State) : Prop where
  key : t.key = s.key
  ir : t.ir = s.ir
  paused : t.paused = s.paused
  params : t.params = s.params
  execEnabled : t.execEnabled = s.execEnabled
  lastError : t.lastError = s.lastError
  keyCaptured : s.keyCaptured = true → t.keyCaptured = true

/-- All the fields an instruction other than LD Vx, K writes when it completes. -/
theorem State.Completed.of_writes {s : State} {mem v i pc stack sp dt st fb fbChanged rndCount} :
    s.Completed { s with mem, v, i, pc, stack, sp, dt, st, fb, fbChanged, rndCount } :=
  ⟨rfl, rfl, rfl, rfl, rfl, rfl, id⟩

/-- Every instruction takes a fault, in the state as it was before it (R9), or completes. -/
theorem exec_faults_or_completes (i : Instr) (s : State) :
    (∃ f, exec i s = raise f s) ∨ ∃ t, exec i s = .next t ∧ s.Completed t := by
  cases i with
  | ret =>
    rcases execRet_cases s with ⟨-, h⟩ | ⟨k, -, h⟩
    · exact .inl ⟨_, h⟩
    · exact .inr ⟨_, h, .of_writes⟩
  | call nnn =>
    rcases execCall_cases s nnn with ⟨-, h⟩ | ⟨_, h⟩
    · exact .inl ⟨_, h⟩
    · exact .inr ⟨_, h, .of_writes⟩
  | drw x y n =>
    rcases execDrw_cases s x y n with ⟨-, h⟩ | ⟨-, -, h⟩ | ⟨-, -, h⟩
    · exact .inl ⟨_, h⟩
    · exact .inl ⟨_, h⟩
    · exact .inr ⟨_, h, .of_writes⟩
  | ldBVx x =>
    rcases execLdBVx_cases s x with ⟨-, h⟩ | ⟨-, h⟩
    · exact .inl ⟨_, h⟩
    · exact .inr ⟨_, h, .of_writes⟩
  | ldMemVx x =>
    rcases execLdMemVx_cases s x with ⟨-, h⟩ | ⟨-, h⟩
    · exact .inl ⟨_, h⟩
    · exact .inr ⟨_, h, .of_writes⟩
  | ldVxMem x =>
    rcases execLdVxMem_cases s x with ⟨-, h⟩ | ⟨-, h⟩
    · exact .inl ⟨_, h⟩
    · exact .inr ⟨_, h, .of_writes⟩
  | skp x =>
    rcases execSkp_cases s x with ⟨-, h⟩ | ⟨k, -, h⟩
    · exact .inl ⟨_, h⟩
    · exact .inr ⟨_, h, .of_writes⟩
  | sknp x =>
    rcases execSknp_cases s x with ⟨-, h⟩ | ⟨k, -, h⟩
    · exact .inl ⟨_, h⟩
    · exact .inr ⟨_, h, .of_writes⟩
  | ldVxK x =>
    rcases execLdVxK_cases s x with ⟨-, h⟩ | ⟨k, -, h⟩
    · exact .inr ⟨_, h, .of_writes⟩
    · exact .inr ⟨_, h, ⟨rfl, rfl, rfl, rfl, rfl, rfl, fun _ => rfl⟩⟩
  | cls | jp | seImm | sneImm | seReg | sneReg | jpV0
  | ldImm | addImm | ldReg | or | and | xor | addReg | sub | shr | subn | shl | rnd
  | ldI | addIVx | ldFVx | ldVxDt | ldDtVx | ldStVx =>
    exact .inr ⟨_, rfl, .of_writes⟩

/-- Settles O48: a fault clears `exec_enabled` and latches its code, and writes no other host state; an instruction that
completes writes none but `key_captured`, which it sets. -/
theorem instructionsNeverWriteHostState : Obligations.InstructionsNeverWriteHostState := by
  unfold Obligations.InstructionsNeverWriteHostState
  intro i s t h
  rcases exec_faults_or_completes i s with ⟨f, hf⟩ | ⟨u, hu, hc⟩
  · obtain rfl : s.takeFault f = t := Host.Outcome.next.inj (hf.symm.trans h)
    exact ⟨rfl, rfl, rfl, rfl, fun ht => absurd ht Bool.false_ne_true, id⟩
  · obtain rfl : u = t := Host.Outcome.next.inj (hu.symm.trans h)
    exact ⟨hc.key, hc.ir, hc.paused, hc.params, hc.execEnabled ▸ id, hc.keyCaptured⟩

end Sys2Proof.Machine
end

section
/-!
SUPPORT. The invariant after a hard reset, and O58 from it.
-/
namespace Sys2Proof.Machine

/-- R32, R133: a hard reset restores the invariant from any state and under any parameters: memory lists nothing, the core
runs with no error latched, `pc` is 0x200 and no stack slot is occupied. -/
theorem State.hardReset_inv (s : State) : s.hardReset.Inv where
  memWf := Memory.reset_wf s.params.font
  halt := iff_of_true rfl rfl
  pc := by
    have hpc : s.hardReset.pc.toNat ≤ 0x10FE := show (0x200 : Nat) ≤ 0x10FE by decide
    have hsp : s.hardReset.sp.val = 0 := rfl
    exact ⟨hpc, fun k hk => absurd (hsp ▸ hk) k.val.not_lt_zero⟩

/-- Settles O58: the reset state is its own hard reset. -/
theorem resetHasTheInvariant : Obligations.ResetHasTheInvariant := by
  unfold Obligations.ResetHasTheInvariant
  have hreset : State.reset.hardReset = State.reset := rfl
  exact hreset ▸ State.reset.hardReset_inv

end Sys2Proof.Machine
end

section
/-!
SUPPORT. Control transfer (spec section 40): the words that decode to each of its instructions, whatever their ignored bits
hold, and what each instruction answers. From them O16, O17, O18, O20 and O21.
-/
namespace Sys2Proof

variable (x y : Reg) (b : Fin 16) (kk : Byte) (nnn : BitVec 12)

/-! ## Words -/

@[simp] theorem decode_ret : decode (encXKK 0x0 b 0xEE) = .op .ret := by simp [decode, decodeClass0]

@[simp] theorem decode_jp : decode (encA 0x1 nnn) = .op (.jp nnn) := by simp [decode]

@[simp] theorem decode_call : decode (encA 0x2 nnn) = .op (.call nnn) := by simp [decode]

@[simp] theorem decode_seImm : decode (encXKK 0x3 x kk) = .op (.seImm x kk) := by simp [decode]

@[simp] theorem decode_sneImm : decode (encXKK 0x4 x kk) = .op (.sneImm x kk) := by simp [decode]

@[simp] theorem decode_seReg : decode (encXYN 0x5 x y b) = .op (.seReg x y) := by simp [decode]

@[simp] theorem decode_sneReg : decode (encXYN 0x9 x y b) = .op (.sneReg x y) := by simp [decode]

end Sys2Proof

namespace Sys2Proof.Machine

variable (s : State) (x y : Reg) (kk : Byte) (nnn : BitVec 12)

/-! ## Skips -/

/-- A skip on two equal bytes (R66, R68). -/
theorem State.skipIf_beq (a b : Byte) :
    s.skipIf (a == b) = { s with pc := if a = b then s.pc + 4 else s.pc + 2 } := by
  simp [State.skipIf_eq]

/-- A skip on two different bytes (R67, R69). -/
theorem State.skipIf_bne (a b : Byte) :
    s.skipIf (a != b) = { s with pc := if a = b then s.pc + 2 else s.pc + 4 } := by
  by_cases h : a = b <;> simp [State.skipIf_eq, h]

theorem exec_seImm : exec (.seImm x kk) s =
    .next { s with pc := if s.reg x = kk then s.pc + 4 else s.pc + 2 } :=
  congrArg Host.Outcome.next (s.skipIf_beq (s.reg x) kk)

theorem exec_sneImm : exec (.sneImm x kk) s =
    .next { s with pc := if s.reg x = kk then s.pc + 2 else s.pc + 4 } :=
  congrArg Host.Outcome.next (s.skipIf_bne (s.reg x) kk)

theorem exec_seReg : exec (.seReg x y) s =
    .next { s with pc := if s.reg x = s.reg y then s.pc + 4 else s.pc + 2 } :=
  congrArg Host.Outcome.next (s.skipIf_beq (s.reg x) (s.reg y))

theorem exec_sneReg : exec (.sneReg x y) s =
    .next { s with pc := if s.reg x = s.reg y then s.pc + 2 else s.pc + 4 } :=
  congrArg Host.Outcome.next (s.skipIf_bne (s.reg x) (s.reg y))

/-! ## Jump, call and return -/

theorem exec_jp : exec (.jp nnn) s = .next { s with pc := addressOf nnn } := rfl

/-- RET with an occupied slot: the top one, which stays as it is (R22, R63). -/
theorem exec_ret_of_succ (k : Fin 16) (hk : k.val + 1 = s.sp.val) : exec .ret s =
    .next { s with sp := ⟨k.val, by have := k.isLt; omega⟩, pc := s.stack[k] + 2 } := by
  change execRet s = _
  rw [execRet, s.pop_of_succ k hk]
  rfl

theorem exec_ret_empty (h : s.sp = 0) : exec .ret s = raise .stackUnderflow s := by
  change execRet s = _
  rw [execRet, s.pop_empty h]

/-- CALL with a free slot: the first one, which gets the address of this CALL (R65). -/
theorem exec_call_of_lt (h : s.sp.val < 16) : exec (.call nnn) s =
    .next { s with
      stack := s.stack.set s.sp.val s.pc, sp := ⟨s.sp.val + 1, Nat.succ_lt_succ h⟩, pc := addressOf nnn } := by
  change execCall nnn s = _
  rw [execCall, s.push_of_lt s.pc h]
  rfl

theorem exec_call_full (h : s.sp.val = 16) : exec (.call nnn) s = raise .stackOverflow s := by
  change execCall nnn s = _
  rw [execCall, s.push_full s.pc h]

/-- A slot read after a write to slot `n` of the stack. -/
theorem stack_set_get (st : Vector Word 16) {n : Nat} (h : n < 16) (w : Word) (k : Fin 16) :
    (st.set n w)[k] = if k.val = n then w else st[k] := by
  simp [Vector.getElem_set, eq_comm]

/-! ## The obligations -/

/-- Settles O16: JP writes `pc` alone, with the address widened. -/
theorem jumpSetsPc : Obligations.JumpSetsPc := by
  unfold Obligations.JumpSetsPc
  intro nnn s
  exact ⟨decode_jp nnn, _, exec_jp s nnn, rfl, addressOf_toNat nnn⟩

/-- Settles O17: the pop answers the top slot where one is occupied, and nothing where `sp` is 0. -/
theorem returnPopsTheCallAddress : Obligations.ReturnPopsTheCallAddress := by
  unfold Obligations.ReturnPopsTheCallAddress
  intro s
  refine ⟨decode_ret, fun k hk => ?_, fun h => ?_⟩
  · exact ⟨_, exec_ret_of_succ s k hk, rfl, rfl⟩
  · exact exec_ret_empty s h

/-- Settles O18: the push writes the first free slot alone, and fails where `sp` is 16. -/
theorem callPushesItsOwnAddress : Obligations.CallPushesItsOwnAddress := by
  unfold Obligations.CallPushesItsOwnAddress
  intro nnn s
  refine ⟨decode_call nnn, fun h => ?_, fun h => ?_⟩
  · exact ⟨_, exec_call_of_lt s nnn h, rfl, rfl, addressOf_toNat nnn, stack_set_get s.stack h s.pc⟩
  · exact exec_call_full s nnn h

/-- Settles O20: in each case of the comparison, SE and SNE take opposite branches. -/
theorem skipsOnImmediate : Obligations.SkipsOnImmediate := by
  unfold Obligations.SkipsOnImmediate
  intro x kk s
  refine ⟨decode_seImm x kk, decode_sneImm x kk, fun heq => ?_, fun hne => ?_⟩
  · simp [exec_seImm, exec_sneImm, heq]
  · simp [exec_seImm, exec_sneImm, hne]

/-- Settles O21: in each case of the comparison, SE and SNE take opposite branches, and the low nibble is not decoded. -/
theorem skipsOnRegisters : Obligations.SkipsOnRegisters := by
  unfold Obligations.SkipsOnRegisters
  intro x y b s
  refine ⟨decode_seReg x y b, decode_sneReg x y b, fun heq => ?_, fun hne => ?_⟩
  · simp [exec_seReg, exec_sneReg, heq]
  · simp [exec_seReg, exec_sneReg, hne]

end Sys2Proof.Machine
end

section
/-!
SUPPORT. Arithmetic and logic (spec section 41): the words of its instructions, the value and the flag each of them writes,
and the one effect of each register shape. From them O23 to O28.
-/
namespace Sys2Proof

variable (x y : Reg) (kk : Byte)

/-! ## Words -/

@[simp] theorem decode_ldImm : decode (encXKK 0x6 x kk) = .op (.ldImm x kk) := by simp [decode]

@[simp] theorem decode_addImm : decode (encXKK 0x7 x kk) = .op (.addImm x kk) := by simp [decode]

@[simp] theorem decode_ldReg : decode (encXYN 0x8 x y 0x0) = .op (.ldReg x y) := by simp [decode, decodeClass8]

@[simp] theorem decode_or : decode (encXYN 0x8 x y 0x1) = .op (.or x y) := by simp [decode, decodeClass8]

@[simp] theorem decode_and : decode (encXYN 0x8 x y 0x2) = .op (.and x y) := by simp [decode, decodeClass8]

@[simp] theorem decode_xor : decode (encXYN 0x8 x y 0x3) = .op (.xor x y) := by simp [decode, decodeClass8]

@[simp] theorem decode_addReg : decode (encXYN 0x8 x y 0x4) = .op (.addReg x y) := by simp [decode, decodeClass8]

@[simp] theorem decode_sub : decode (encXYN 0x8 x y 0x5) = .op (.sub x y) := by simp [decode, decodeClass8]

@[simp] theorem decode_shr : decode (encXYN 0x8 x y 0x6) = .op (.shr x) := by simp [decode, decodeClass8]

@[simp] theorem decode_subn : decode (encXYN 0x8 x y 0x7) = .op (.subn x y) := by simp [decode, decodeClass8]

@[simp] theorem decode_shl : decode (encXYN 0x8 x y 0xE) = .op (.shl x) := by simp [decode, decodeClass8]

end Sys2Proof

namespace Sys2Proof.Machine

variable (s : State) (x y : Reg) (kk : Byte)

/-! ## The value and the flag of each instruction -/

theorem exec_ldImm : exec (.ldImm x kk) s = writeReg x kk s := rfl

theorem exec_addImm : exec (.addImm x kk) s = writeReg x (s.reg x + kk) s := rfl

theorem exec_ldReg : exec (.ldReg x y) s = writeReg x (s.reg y) s := rfl

theorem exec_or : exec (.or x y) s = writeReg x (s.reg x ||| s.reg y) s := rfl

theorem exec_and : exec (.and x y) s = writeReg x (s.reg x &&& s.reg y) s := rfl

theorem exec_xor : exec (.xor x y) s = writeReg x (s.reg x ^^^ s.reg y) s := rfl

theorem exec_addReg : exec (.addReg x y) s =
    writeFlagAndReg (carryFlag (s.reg x) (s.reg y)) x (s.reg x + s.reg y) s := rfl

theorem exec_sub : exec (.sub x y) s =
    writeFlagAndReg (notBorrowFlag (s.reg x) (s.reg y)) x (s.reg x - s.reg y) s := rfl

theorem exec_subn : exec (.subn x y) s =
    writeFlagAndReg (notBorrowFlag (s.reg y) (s.reg x)) x (s.reg y - s.reg x) s := rfl

theorem exec_shr : exec (.shr x) s = writeFlagAndReg (shrFlag (s.reg x)) x (s.reg x >>> 1) s := rfl

theorem exec_shl : exec (.shl x) s = writeFlagAndReg (shlFlag (s.reg x)) x (s.reg x <<< 1) s := rfl

/-! ## The effect of each register shape -/

/-- An instruction without a flag writes its result to `V[x]`, advances `pc`, and keeps the rest (R75 to R80). -/
theorem exec_writesReg {s : State} {i : Instr} {x : Reg} {b : Byte} (h : exec i s = writeReg x b s) :
    ∃ t, exec i s = .next t ∧ t = { s with v := t.v, pc := s.pc + 2 } ∧ t.reg x = b ∧ s.KeepsRegsBut t [x] := by
  refine ⟨_, h.trans (writeReg_eq s x b), rfl, s.reg_setReg_self x b, fun k hk => ?_⟩
  exact s.reg_setReg_ne (List.ne_of_not_mem_cons hk) b

/-- A flag-setting instruction also writes VF, which keeps the flag unless it is the destination (R74, R81 to R85). -/
theorem exec_writesFlagAndReg {s : State} {i : Instr} {x : Reg} {g b : Byte}
    (h : exec i s = writeFlagAndReg g x b s) :
    ∃ t, exec i s = .next t ∧ t = { s with v := t.v, pc := s.pc + 2 } ∧ t.reg x = b ∧
      (x ≠ 15 → t.reg 15 = g) ∧ s.KeepsRegsBut t [x, 15] := by
  have hreg := fun k => s.reg_setFlagThenReg x k g b
  refine ⟨_, h.trans (writeFlagAndReg_eq s g x b), rfl, ?_, fun hx => ?_, fun k hk => ?_⟩
  · exact (hreg x).trans (if_pos rfl)
  · exact (hreg 15).trans ((if_neg hx.symm).trans (if_pos rfl))
  · obtain ⟨hkx, hkf⟩ : k ≠ x ∧ k ≠ 15 := by simpa using hk
    exact (hreg k).trans ((if_neg hkx).trans (if_neg hkf))

/-! ## Arithmetic of the results and of the flags -/

theorem carryFlag_eq (a b : Byte) : carryFlag a b = if a.toNat + b.toNat > 255 then 1 else 0 := by
  simp [carryFlag, flagByte]

theorem notBorrowFlag_eq (a b : Byte) : notBorrowFlag a b = if a.toNat > b.toNat then 1 else 0 := by
  simp [notBorrowFlag, flagByte]

theorem byte_sub_toNat (a b : Byte) : (a - b).toNat = (a.toNat + 256 - b.toNat) % 256 := by
  have hb := b.isLt
  rw [BitVec.toNat_sub]
  omega

theorem shrFlag_toNat (a : Byte) : (shrFlag a).toNat = a.toNat % 2 := Nat.and_one_is_mod a.toNat

theorem byte_shiftRight_one_toNat (a : Byte) : (a >>> 1).toNat = a.toNat / 2 := by
  rw [BitVec.toNat_ushiftRight, Nat.shiftRight_one]

/-- Bit 7, brought down to bit 0, is the byte's upper half: a byte is below 256. -/
theorem shlFlag_toNat (a : Byte) : (shlFlag a).toNat = a.toNat / 128 := by
  have ha := a.isLt
  calc (shlFlag a).toNat
      = (a.toNat >>> 7) &&& 1 := Nat.shiftRight_and_distrib
    _ = a.toNat / 128 % 2 := by rw [Nat.and_one_is_mod, Nat.shiftRight_eq_div_pow]
    _ = a.toNat / 128 := by omega

theorem byte_shiftLeft_one_toNat (a : Byte) : (a <<< 1).toNat = a.toNat * 2 % 256 := by
  rw [BitVec.toNat_shiftLeft, Nat.shiftLeft_eq, pow_one]

/-- An instruction that writes the difference of two bytes with its not-borrow (R82, R83). -/
theorem exec_subtracts {s : State} {i : Instr} {x : Reg} {a b : Byte}
    (h : exec i s = writeFlagAndReg (notBorrowFlag a b) x (a - b) s) :
    ∃ t, exec i s = .next t ∧ t = { s with v := t.v, pc := s.pc + 2 } ∧
      (t.reg x).toNat = (a.toNat + 256 - b.toNat) % 256 ∧
      (x ≠ 15 → t.reg 15 = if a.toNat > b.toNat then 1 else 0) ∧ s.KeepsRegsBut t [x, 15] := by
  obtain ⟨t, ht, hframe, hx, hflag, hkept⟩ := exec_writesFlagAndReg h
  exact ⟨t, ht, hframe, hx ▸ byte_sub_toNat a b, fun hne => (hflag hne).trans (notBorrowFlag_eq a b), hkept⟩

/-! ## The obligations -/

/-- Settles O23: LD Vx, kk is the shape without a flag, at its immediate. -/
theorem loadImmediateWritesTheRegister : Obligations.LoadImmediateWritesTheRegister := by
  unfold Obligations.LoadImmediateWritesTheRegister
  intro x kk s
  exact ⟨decode_ldImm x kk, exec_writesReg (exec_ldImm s x kk)⟩

/-- Settles O24: the sum of two bytes is taken modulo 256, and the shape has no flag. -/
theorem addImmediateWrapsWithoutFlag : Obligations.AddImmediateWrapsWithoutFlag := by
  unfold Obligations.AddImmediateWrapsWithoutFlag
  intro x kk s
  obtain ⟨t, ht, hframe, hx, hkept⟩ := exec_writesReg (exec_addImm s x kk)
  exact ⟨decode_addImm x kk, t, ht, hframe, hx ▸ BitVec.toNat_add _ _, hkept⟩

/-- Settles O25: the shape without a flag, at the other register or at the two registers combined bit by bit. -/
theorem moveAndLogicLeaveVFAlone : Obligations.MoveAndLogicLeaveVFAlone := by
  unfold Obligations.MoveAndLogicLeaveVFAlone
  intro x y s
  refine ⟨⟨decode_ldReg x y, decode_or x y, decode_and x y, decode_xor x y⟩,
    exec_writesReg (exec_ldReg s x y), ?or, ?and, ?xor⟩
  case or =>
    obtain ⟨t, ht, hframe, hx, hkept⟩ := exec_writesReg (exec_or s x y)
    exact ⟨t, ht, hframe, fun b => hx ▸ BitVec.getLsbD_or, hkept⟩
  case and =>
    obtain ⟨t, ht, hframe, hx, hkept⟩ := exec_writesReg (exec_and s x y)
    exact ⟨t, ht, hframe, fun b => hx ▸ BitVec.getLsbD_and, hkept⟩
  case xor =>
    obtain ⟨t, ht, hframe, hx, hkept⟩ := exec_writesReg (exec_xor s x y)
    exact ⟨t, ht, hframe, fun b => hx ▸ BitVec.getLsbD_xor, hkept⟩

/-- Settles O26: the flag-setting shape, at the sum and its carry. -/
theorem addSetsCarry : Obligations.AddSetsCarry := by
  unfold Obligations.AddSetsCarry
  intro x y s
  obtain ⟨t, ht, hframe, hx, hflag, hkept⟩ := exec_writesFlagAndReg (exec_addReg s x y)
  exact ⟨decode_addReg x y, t, ht, hframe, hx ▸ BitVec.toNat_add _ _,
    fun hne => (hflag hne).trans (carryFlag_eq _ _), hkept⟩

/-- Settles O27: SUB and SUBN are one subtraction, with the operands either way round. -/
theorem subtractsSetStrictNotBorrow : Obligations.SubtractsSetStrictNotBorrow := by
  unfold Obligations.SubtractsSetStrictNotBorrow
  intro x y s
  exact ⟨⟨decode_sub x y, decode_subn x y⟩, exec_subtracts (exec_sub s x y), exec_subtracts (exec_subn s x y)⟩

/-- Settles O28: the flag-setting shape, at half or twice `V[x]` and its lowest or highest bit; no decoded operation holds
the field Y. -/
theorem shiftsSetTheBitShiftedOut : Obligations.ShiftsSetTheBitShiftedOut := by
  unfold Obligations.ShiftsSetTheBitShiftedOut
  intro x y s
  refine ⟨⟨decode_shr x y, decode_shl x y⟩, ?shr, ?shl⟩
  case shr =>
    obtain ⟨t, ht, hframe, hx, hflag, hkept⟩ := exec_writesFlagAndReg (exec_shr s x)
    exact ⟨t, ht, hframe, hx ▸ byte_shiftRight_one_toNat _, fun hne => hflag hne ▸ shrFlag_toNat _, hkept⟩
  case shl =>
    obtain ⟨t, ht, hframe, hx, hflag, hkept⟩ := exec_writesFlagAndReg (exec_shl s x)
    exact ⟨t, ht, hframe, hx ▸ byte_shiftLeft_one_toNat _, fun hne => hflag hne ▸ shlFlag_toNat _, hkept⟩

end Sys2Proof.Machine
end

section
/-!
SUPPORT. The index register and the stores to memory (spec section 42): the words of its instructions, what a block write
does to a read, and what LD B and LD [I], Vx answer inside and outside memory. From them O30, O32 and O33.
-/
namespace Sys2Proof

variable (x : Reg) (nnn : BitVec 12)

/-! ## Words -/

@[simp] theorem decode_ldI : decode (encA 0xA nnn) = .op (.ldI nnn) := by simp [decode]

@[simp] theorem decode_addIVx : decode (encXKK 0xF x 0x1E) = .op (.addIVx x) := by simp [decode, decodeClassF]

@[simp] theorem decode_ldBVx : decode (encXKK 0xF x 0x33) = .op (.ldBVx x) := by simp [decode, decodeClassF]

@[simp] theorem decode_ldMemVx : decode (encXKK 0xF x 0x55) = .op (.ldMemVx x) := by simp [decode, decodeClassF]

end Sys2Proof

namespace Sys2Proof.Machine

variable (s : State) (x : Reg) (nnn : BitVec 12)

/-! ## Blocks of memory -/

/-- A block that is not empty is in the space exactly where its last byte is (R38). -/
theorem inSpace_succ_iff (a n : Nat) : InSpace a (n + 1) ↔ a + n ≤ 0xFFF := by
  constructor
  · exact fun h => h n n.lt_succ_self
  · intro h k hk
    omega

section Block

variable {a : Nat} {bs : List Byte} (hspace : a + bs.length ≤ memSize)
include hspace

/-- The k-th byte of a block written reads as written. -/
theorem State.readByte_writeBytes_of_get {k : Nat} {b : Byte} (hk : bs[k]? = some b) :
    (s.writeBytes a bs).readByte (a + k) = b := by
  have hread := Memory.read_writeBytes s.params.font bs s.mem a hspace (a + k)
  rw [if_pos (Nat.le_add_right a k), Nat.add_sub_cancel_left, hk] at hread
  exact hread

/-- Every byte before or past a block written is kept. -/
theorem State.writeBytes_keepsBytesBut : s.KeepsBytesBut (s.writeBytes a bs) a bs.length := by
  intro b hb
  have hread := Memory.read_writeBytes s.params.font bs s.mem a hspace b
  rcases hb with hbefore | hpast
  · exact hread.trans (if_neg (Nat.not_le.mpr hbefore))
  · have hnone : bs[b - a]? = none := List.getElem?_eq_none (by omega)
    rw [if_pos (by omega), hnone] at hread
    exact hread

end Block

/-! ## Values -/

theorem byte_toNat_ofNat_of_le {n : Nat} {b : Byte} (h : n ≤ b.toNat) : (BitVec.ofNat 8 n).toNat = n :=
  Nat.mod_eq_of_lt (h.trans_lt b.isLt)

/-- A decimal digit that is at most the byte reads back from the digits' block in full (R91). -/
theorem State.toNat_readByte_writeBytes_bcdDigits {a k n : Nat} {b : Byte}
    (hspace : a + (bcdDigits b).length ≤ memSize) (hk : (bcdDigits b)[k]? = some (BitVec.ofNat 8 n))
    (hn : n ≤ b.toNat) : ((s.writeBytes a (bcdDigits b)).readByte (a + k)).toNat = n := by
  rw [s.readByte_writeBytes_of_get hspace hk, byte_toNat_ofNat_of_le hn]

/-- `I` plus a register: the register is widened without loss, the sum taken modulo 65536 (R89). -/
theorem index_add_byte_toNat (i : Word) (b : Byte) : (i + b.zeroExtend 16).toNat = (i.toNat + b.toNat) % 65536 := by
  have hb : (b.zeroExtend 16).toNat = b.toNat := BitVec.toNat_setWidth_of_le (by decide)
  rw [BitVec.toNat_add, hb]

theorem State.indexPast_toNat : (s.indexPast x).toNat = (s.i.toNat + x.val + 1) % 65536 := BitVec.toNat_ofNat _ _

/-! ## The answer of each instruction -/

theorem exec_ldI : exec (.ldI nnn) s = .next { s with i := addressOf nnn, pc := s.pc + 2 } := rfl

theorem exec_addIVx : exec (.addIVx x) s =
    .next { s with i := s.i + (s.reg x).zeroExtend 16, pc := s.pc + 2 } := rfl

theorem exec_ldBVx_of_inSpace (h : InSpace s.i.toNat 3) : exec (.ldBVx x) s =
    .next { s.writeBytes s.i.toNat (bcdDigits (s.reg x)) with pc := s.pc + 2 } :=
  ((execLdBVx_cases s x).resolve_left fun hout => hout.1 h).2

theorem exec_ldBVx_outside (h : ¬ InSpace s.i.toNat 3) : exec (.ldBVx x) s = raise .addressOutOfRange s :=
  ((execLdBVx_cases s x).resolve_right fun hin => h hin.1).2

theorem exec_ldMemVx_of_inSpace (h : InSpace s.i.toNat (x.val + 1)) : exec (.ldMemVx x) s =
    .next { s.writeBytes s.i.toNat (s.regsUpTo x) with i := s.indexPast x, pc := s.pc + 2 } :=
  ((execLdMemVx_cases s x).resolve_left fun hout => hout.1 h).2

theorem exec_ldMemVx_outside (h : ¬ InSpace s.i.toNat (x.val + 1)) :
    exec (.ldMemVx x) s = raise .addressOutOfRange s :=
  ((execLdMemVx_cases s x).resolve_right fun hin => h hin.1).2

/-! ## The obligations -/

/-- Settles O30: each writes `I` and `pc` alone, `I` with the address widened or with the sum modulo 65536. -/
theorem indexLoadsAndAdds : Obligations.IndexLoadsAndAdds := by
  unfold Obligations.IndexLoadsAndAdds
  intro nnn x s
  refine ⟨⟨decode_ldI nnn, decode_addIVx x⟩, ?ldI, ?addIVx⟩
  case ldI => exact ⟨_, exec_ldI s nnn, rfl, addressOf_toNat nnn⟩
  case addIVx => exact ⟨_, exec_addIVx s x, rfl, index_add_byte_toNat s.i (s.reg x)⟩

/-- Settles O32: in range LD B writes the block of the three digits, each at most the register's byte and so a byte itself;
out of range it takes the fault. -/
theorem bcdStoresThreeDigits : Obligations.BcdStoresThreeDigits := by
  unfold Obligations.BcdStoresThreeDigits
  intro x s
  refine ⟨decode_ldBVx x, fun hin => ?stores, fun hout => ?faults⟩
  case stores =>
    have hspace : s.i.toNat + (bcdDigits (s.reg x)).length ≤ memSize := Nat.succ_le_succ hin
    refine ⟨_, exec_ldBVx_of_inSpace s x ((inSpace_succ_iff _ 2).mpr hin), rfl, ?_, ?_, ?_, ?_⟩
    · exact s.toNat_readByte_writeBytes_bcdDigits hspace (k := 0) rfl (Nat.div_le_self _ _)
    · exact s.toNat_readByte_writeBytes_bcdDigits hspace (k := 1) rfl ((Nat.mod_le _ _).trans (Nat.div_le_self _ _))
    · exact s.toNat_readByte_writeBytes_bcdDigits hspace (k := 2) rfl (Nat.mod_le _ _)
    · exact s.writeBytes_keepsBytesBut hspace
  case faults =>
    exact exec_ldBVx_outside s x (mt (inSpace_succ_iff _ 2).mp (Nat.not_le.mpr hout))

/-- Settles O33: in range LD [I], Vx writes the block V0..VX and moves `I` past it; out of range it takes the fault. -/
theorem blockStoreWritesRegisters : Obligations.BlockStoreWritesRegisters := by
  unfold Obligations.BlockStoreWritesRegisters
  intro x s
  refine ⟨decode_ldMemVx x, fun hin => ?stores, fun hout => ?faults⟩
  case stores =>
    have hlen := s.length_regsUpTo x
    have hspace : s.i.toNat + (s.regsUpTo x).length ≤ memSize := hlen ▸ Nat.succ_le_succ hin
    refine ⟨_, exec_ldMemVx_of_inSpace s x ((inSpace_succ_iff _ _).mpr hin), rfl, fun k hk => ?_, ?_, ?_⟩
    · exact s.readByte_writeBytes_of_get hspace (s.regsUpTo_get x k hk)
    · exact s.indexPast_toNat x
    · exact hlen ▸ s.writeBytes_keepsBytesBut hspace
  case faults =>
    exact exec_ldMemVx_outside s x (mt (inSpace_succ_iff _ _).mp (Nat.not_le.mpr hout))

end Sys2Proof.Machine
end

section
/-!
SUPPORT. The display (spec section 43): the words that decode to CLS, whatever their ignored nibble holds, and its one
answer. From them O36.
-/
namespace Sys2Proof

@[simp] theorem decode_cls (b : Fin 16) : decode (encXKK 0x0 b 0xE0) = .op .cls := by simp [decode, decodeClass0]

end Sys2Proof

namespace Sys2Proof.Machine

/-- CLS puts the blank framebuffer in place, marks it changed and advances `pc` (R94). -/
theorem exec_cls (s : State) : exec .cls s =
    .next { s with fb := Framebuffer.blank, fbChanged := true, pc := s.pc + 2 } := rfl

/-- Settles O36: the framebuffer CLS leaves is the blank one, in which every cell is off. -/
theorem clearScreenZeroesEveryCell : Obligations.ClearScreenZeroesEveryCell := by
  unfold Obligations.ClearScreenZeroesEveryCell
  intro s
  exact ⟨decode_cls, _, exec_cls s, rfl, Framebuffer.get_blank⟩

end Sys2Proof.Machine
end

section
/-!
SUPPORT. Timers (spec section 44): the words of the timer reads and writes, and what each of the three answers. From them
O42.
-/
namespace Sys2Proof

variable (x : Reg)

/-! ## Words -/

@[simp] theorem decode_ldVxDt : decode (encXKK 0xF x 0x07) = .op (.ldVxDt x) := by simp [decode, decodeClassF]

@[simp] theorem decode_ldDtVx : decode (encXKK 0xF x 0x15) = .op (.ldDtVx x) := by simp [decode, decodeClassF]

@[simp] theorem decode_ldStVx : decode (encXKK 0xF x 0x18) = .op (.ldStVx x) := by simp [decode, decodeClassF]

end Sys2Proof

namespace Sys2Proof.Machine

variable (s : State) (x : Reg)

/-! ## The answer of each instruction -/

/-- LD Vx, DT is the register write without a flag, at the delay timer's byte (R101). -/
theorem exec_ldVxDt : exec (.ldVxDt x) s = writeReg x s.dt s := rfl

/-- LD DT, Vx writes the delay timer and `pc` alone (R103). -/
theorem exec_ldDtVx : exec (.ldDtVx x) s = .next { s with dt := s.reg x, pc := s.pc + 2 } := rfl

/-- LD ST, Vx writes the sound timer and `pc` alone (R104). -/
theorem exec_ldStVx : exec (.ldStVx x) s = .next { s with st := s.reg x, pc := s.pc + 2 } := rfl

/-! ## The obligation -/

/-- Settles O42: the read is the register shape without a flag, at DT; each write has the one answer above. -/
theorem timerMovesCopyTheByte : Obligations.TimerMovesCopyTheByte := by
  unfold Obligations.TimerMovesCopyTheByte
  intro x s
  refine ⟨⟨decode_ldVxDt x, decode_ldDtVx x, decode_ldStVx x⟩, ?ldVxDt, ?ldDtVx, ?ldStVx⟩
  case ldVxDt => exact exec_writesReg (exec_ldVxDt s x)
  case ldDtVx => exact exec_ldDtVx s x
  case ldStVx => exact exec_ldStVx s x

end Sys2Proof.Machine
end

section
/-!
SUPPORT. Block load (spec section 42): the words of LD Vx, [I] and what it answers inside and outside memory. From them O34.
-/
namespace Sys2Proof

@[simp] theorem decode_ldVxMem (x : Reg) : decode (encXKK 0xF x 0x65) = .op (.ldVxMem x) := by
  simp [decode, decodeClassF]

end Sys2Proof

namespace Sys2Proof.Machine

variable (s : State) (x : Reg)

theorem exec_ldVxMem_of_inSpace (h : InSpace s.i.toNat (x.val + 1)) : exec (.ldVxMem x) s =
    .next { s with v := s.regsFromMem x, i := s.indexPast x, pc := s.pc + 2 } :=
  ((execLdVxMem_cases s x).resolve_left fun hout => hout.1 h).2

theorem exec_ldVxMem_outside (h : ¬ InSpace s.i.toNat (x.val + 1)) :
    exec (.ldVxMem x) s = raise .addressOutOfRange s :=
  ((execLdVxMem_cases s x).resolve_right fun hin => h hin.1).2

/-- Settles O34: in range LD Vx, [I] takes V0..VX from the block and moves `I` past it; out of range it takes the fault. -/
theorem blockLoadReadsRegisters : Obligations.BlockLoadReadsRegisters := by
  unfold Obligations.BlockLoadReadsRegisters
  intro x s
  refine ⟨decode_ldVxMem x, fun hin => ?loads, fun hout => ?faults⟩
  case loads =>
    have hspace : InSpace s.i.toNat (x.val + 1) := (inSpace_succ_iff _ _).mpr hin
    exact ⟨_, exec_ldVxMem_of_inSpace s x hspace, rfl, s.regsFromMem_get x, s.indexPast_toNat x⟩
  case faults =>
    exact exec_ldVxMem_outside s x (mt (inSpace_succ_iff _ _).mp (Nat.not_le.mpr hout))

end Sys2Proof.Machine
end

section
/-!
SUPPORT. The faults of DRW (spec section 43, R111): the coordinates it draws are those of the sprite's set bits, so its edge
check is the rule's. From them O38.
-/
namespace Sys2Proof.Machine

variable (s : State) (x y : Reg) (n : Fin 16)

/-- The r-th byte of a block read is the byte `r` past its start, and a block of `n` bytes has no byte `n` or later. -/
theorem State.readBytes_get_eq_some (a n r : Nat) (b : Byte) :
    (s.readBytes a n)[r]? = some b ↔ r < n ∧ s.readByte (a + r) = b := by
  induction n generalizing a r with
  | zero => simp [State.readBytes]
  | succ n ih =>
    cases r with
    | zero => simp [State.readBytes]
    | succ r =>
      rw [State.readBytes, List.getElem?_cons_succ, ih, Nat.add_right_comm, Nat.succ_lt_succ_iff, Nat.add_assoc]

/-- The coordinates DRW draws are those of its sprite's set bits (R95). -/
theorem State.mem_drawnPixels (q : Nat × Nat) :
    q ∈ s.drawnPixels x y n ↔
      ∃ r c, s.SpriteBit n r c ∧ q = ((s.reg y).toNat + r, (s.reg x).toNat + c) := by
  rw [State.drawnPixels, mem_spritePixels]
  refine exists_congr fun r => exists_congr fun c => ?_
  simp only [State.readBytes_get_eq_some]
  constructor
  · rintro ⟨_, ⟨hr, rfl⟩, hc, hbit, hq⟩
    exact ⟨⟨hr, hc, hbit⟩, hq⟩
  · rintro ⟨⟨hr, hc, hbit⟩, hq⟩
    exact ⟨_, ⟨hr, rfl⟩, hc, hbit, hq⟩

theorem offGrid_iff (row col : Nat) : offGrid (row, col) = true ↔ col > 63 ∨ row > 31 := by
  simp [offGrid, or_comm]

/-- DRW's edge check finds a coordinate off the grid exactly where a set bit of the sprite leaves it (R97). -/
theorem State.any_offGrid_drawnPixels : (s.drawnPixels x y n).any offGrid = true ↔ s.SpriteLeavesGrid x y n := by
  rw [List.any_eq_true, State.SpriteLeavesGrid]
  constructor
  · rintro ⟨q, hq, hoff⟩
    obtain ⟨r, c, hbit, rfl⟩ := (s.mem_drawnPixels x y n q).mp hq
    exact ⟨r, c, hbit, (offGrid_iff _ _).mp hoff⟩
  · rintro ⟨r, c, hbit, hoff⟩
    exact ⟨_, (s.mem_drawnPixels x y n _).mpr ⟨r, c, hbit, rfl⟩, (offGrid_iff _ _).mpr hoff⟩

/-- DRW checks its sprite's addresses before anything else (R111). -/
theorem exec_drw_outside (h : ¬ InSpace s.i.toNat n.val) : exec (.drw x y n) s = raise .addressOutOfRange s := by
  rcases execDrw_cases s x y n with ⟨-, he⟩ | ⟨hin, -⟩ | ⟨hin, -⟩
  · exact he
  · exact absurd hin h
  · exact absurd hin h

/-- Under the policy Fault, a sprite in memory with a set bit off the grid is not drawn (R97, R111). -/
theorem exec_drw_leavesGrid (hin : InSpace s.i.toNat n.val) (hpolicy : s.params.drawEdge = .fault)
    (hleaves : s.SpriteLeavesGrid x y n) : exec (.drw x y n) s = raise .framebufferOutOfBounds s := by
  have hedge : s.params.drawEdge = .fault ∧ (s.drawnPixels x y n).any offGrid :=
    ⟨hpolicy, (s.any_offGrid_drawnPixels x y n).mpr hleaves⟩
  rcases execDrw_cases s x y n with ⟨hout, -⟩ | ⟨-, -, he⟩ | ⟨-, hinside, -⟩
  · exact absurd hin hout
  · exact he
  · exact absurd hedge hinside

/-- Settles O38: the address check comes first; only where it passes does the edge check decide, under the policy Fault. -/
theorem drawFaultsInOrder : Obligations.DrawFaultsInOrder := by
  unfold Obligations.DrawFaultsInOrder
  intro x y n s
  exact ⟨exec_drw_outside s x y n, exec_drw_leavesGrid s x y n⟩

end Sys2Proof.Machine
end

section
/-!
SUPPORT. Key skips (spec section 44): the words of SKP and SKNP, and what each answers where its register names a key and
where it names none. From them O40.
-/
namespace Sys2Proof

variable (x : Reg)

@[simp] theorem decode_skp : decode (encXKK 0xE x 0x9E) = .op (.skp x) := by simp [decode, decodeClassE]

@[simp] theorem decode_sknp : decode (encXKK 0xE x 0xA1) = .op (.sknp x) := by simp [decode, decodeClassE]

end Sys2Proof

namespace Sys2Proof.Machine

variable (s : State) (x : Reg)

/-- SKP on a named key skips exactly where it is down (R99). -/
theorem exec_skp_of_key (k : Key) (h : (s.reg x).toNat = k.val) : exec (.skp x) s =
    .next { s with pc := if s.key[k] then s.pc + 4 else s.pc + 2 } := by
  change execSkp x s = _
  rw [execSkp, (keyIndex_eq_some _ k).mpr h]
  rfl

theorem exec_skp_noKey (h : 15 < (s.reg x).toNat) : exec (.skp x) s = raise .keyIndexOutOfRange s := by
  change execSkp x s = _
  rw [execSkp, (keyIndex_eq_none _).mpr h]

/-- SKNP on a named key skips exactly where it is up (R100). -/
theorem exec_sknp_of_key (k : Key) (h : (s.reg x).toNat = k.val) : exec (.sknp x) s =
    .next { s with pc := if s.key[k] then s.pc + 2 else s.pc + 4 } := by
  have hskip : s.skipIf (!s.key[k]) = { s with pc := if s.key[k] then s.pc + 2 else s.pc + 4 } := by
    cases s.key[k] <;> rfl
  change execSknp x s = _
  rw [execSknp, (keyIndex_eq_some _ k).mpr h]
  exact congrArg Host.Outcome.next hskip

theorem exec_sknp_noKey (h : 15 < (s.reg x).toNat) : exec (.sknp x) s = raise .keyIndexOutOfRange s := by
  change execSknp x s = _
  rw [execSknp, (keyIndex_eq_none _).mpr h]

/-- Settles O40: on a named key SKP and SKNP take opposite branches; above 15 both take the fault. -/
theorem keySkipsTestTheKey : Obligations.KeySkipsTestTheKey := by
  unfold Obligations.KeySkipsTestTheKey
  intro x s
  refine ⟨⟨decode_skp x, decode_sknp x⟩, fun k hk => ?skips, fun habove => ?faults⟩
  case skips => exact ⟨exec_skp_of_key s x k hk, exec_sknp_of_key s x k hk⟩
  case faults => exact ⟨exec_skp_noKey s x habove, exec_sknp_noKey s x habove⟩

end Sys2Proof.Machine
end

section
/-!
SUPPORT. The encoder read back by the decoder: the words of the instructions whose sections above do not need them, and one
equation per instruction. From it O1.
-/
namespace Sys2Proof

variable (x y : Reg) (n : Fin 16) (kk : Byte) (nnn : BitVec 12)

@[simp] theorem decode_jpV0 : decode (encA 0xB nnn) = .op (.jpV0 nnn) := by simp [decode]

@[simp] theorem decode_rnd : decode (encXKK 0xC x kk) = .op (.rnd x kk) := by simp [decode]

@[simp] theorem decode_drw : decode (encXYN 0xD x y n) = .op (.drw x y n) := by simp [decode]

@[simp] theorem decode_ldVxK : decode (encXKK 0xF x 0x0A) = .op (.ldVxK x) := by simp [decode, decodeClassF]

@[simp] theorem decode_ldFVx : decode (encXKK 0xF x 0x29) = .op (.ldFVx x) := by simp [decode, decodeClassF]

/-- Settles O1: each instruction is written in one format, whose word decodes to it at every operand. -/
theorem decodeOfEncodeIsTheInstruction : Obligations.DecodeOfEncodeIsTheInstruction := by
  unfold Obligations.DecodeOfEncodeIsTheInstruction
  intro i
  cases i with
  | cls => exact decode_cls 0
  | ret => exact decode_ret 0
  | jp nnn => exact decode_jp nnn
  | call nnn => exact decode_call nnn
  | seImm x kk => exact decode_seImm x kk
  | sneImm x kk => exact decode_sneImm x kk
  | seReg x y => exact decode_seReg x y 0
  | ldImm x kk => exact decode_ldImm x kk
  | addImm x kk => exact decode_addImm x kk
  | ldReg x y => exact decode_ldReg x y
  | or x y => exact decode_or x y
  | and x y => exact decode_and x y
  | xor x y => exact decode_xor x y
  | addReg x y => exact decode_addReg x y
  | sub x y => exact decode_sub x y
  | shr x => exact decode_shr x 0
  | subn x y => exact decode_subn x y
  | shl x => exact decode_shl x 0
  | sneReg x y => exact decode_sneReg x y 0
  | ldI nnn => exact decode_ldI nnn
  | jpV0 nnn => exact decode_jpV0 nnn
  | rnd x kk => exact decode_rnd x kk
  | drw x y n => exact decode_drw x y n
  | skp x => exact decode_skp x
  | sknp x => exact decode_sknp x
  | ldVxDt x => exact decode_ldVxDt x
  | ldVxK x => exact decode_ldVxK x
  | ldDtVx x => exact decode_ldDtVx x
  | ldStVx x => exact decode_ldStVx x
  | addIVx x => exact decode_addIVx x
  | ldFVx x => exact decode_ldFVx x
  | ldBVx x => exact decode_ldBVx x
  | ldMemVx x => exact decode_ldMemVx x
  | ldVxMem x => exact decode_ldVxMem x

end Sys2Proof
end

section
/-!
SUPPORT. The effect of an instruction: one relation that says, for each instruction, which fields its answer may differ in,
and the lemma that every answer of `exec` and of `execWith` is in it. What instructions leave unchanged follows by cases on
it. From them O43 to O47.
-/
namespace Sys2Proof.Machine

/-- `s.Effect i t`: the instruction `i` may lead from `s` to `t`. An instruction takes a fault (R112), or changes `pc` alone,
or registers alone with the default advance, or is one of those named here with what it writes. A new `pc` is at most 0x10FE
where the instruction was fetched from memory (R20). -/
inductive State.Effect (s : State) : Instr → State → Prop
  | fault (i : Instr) (f : Fault) : s.Effect i (s.takeFault f)
  | jump (i : Instr) (w : Word) (hw : s.pc.toNat ≤ 0xFFE → w.toNat ≤ 0x10FE) : s.Effect i { s with pc := w }
  | writeRegs (i : Instr) (v : Vector Byte 16) (rndCount : Nat) (keyCaptured : Bool)
      (hv : ∀ k : Reg, k ∉ regsWritten i → v[k] = s.reg k) :
      s.Effect i { s with v, rndCount, keyCaptured, pc := s.pc + 2 }
  | ret (k : Fin 16) (hk : k.val + 1 = s.sp.val) :
      s.Effect .ret { s with sp := ⟨k.val, by have := k.isLt; omega⟩, pc := s.stack[k] + 2 }
  | call (nnn : BitVec 12) (h : s.sp.val < 16) :
      s.Effect (.call nnn) { s with
        stack := s.stack.set s.sp.val s.pc, sp := ⟨s.sp.val + 1, Nat.succ_lt_succ h⟩, pc := addressOf nnn }
  | ldI (nnn : BitVec 12) (w : Word) : s.Effect (.ldI nnn) { s with i := w, pc := s.pc + 2 }
  | addIVx (x : Reg) (w : Word) : s.Effect (.addIVx x) { s with i := w, pc := s.pc + 2 }
  | ldFVx (x : Reg) (w : Word) : s.Effect (.ldFVx x) { s with i := w, pc := s.pc + 2 }
  | ldDtVx (x : Reg) (b : Byte) : s.Effect (.ldDtVx x) { s with dt := b, pc := s.pc + 2 }
  | ldStVx (x : Reg) (b : Byte) : s.Effect (.ldStVx x) { s with st := b, pc := s.pc + 2 }
  | cls (fb : Framebuffer) : s.Effect .cls { s with fb, fbChanged := true, pc := s.pc + 2 }
  | drw (x y : Reg) (n : Fin 16) (fb : Framebuffer) (b : Byte) :
      s.Effect (.drw x y n) { s with fb, fbChanged := true, v := s.v.set vF b, pc := s.pc + 2 }
  | ldBVx (x : Reg) (a : Nat) (bs : List Byte) : s.Effect (.ldBVx x) { s.writeBytes a bs with pc := s.pc + 2 }
  | ldMemVx (x : Reg) (a : Nat) (bs : List Byte) (w : Word) :
      s.Effect (.ldMemVx x) { s.writeBytes a bs with i := w, pc := s.pc + 2 }
  | ldVxMem (x : Reg) (w : Word) :
      s.Effect (.ldVxMem x) { s with v := s.regsFromMem x, i := w, pc := s.pc + 2 }

section Answers

variable (s : State) (x : Reg) (b : Byte)

/-! ## The shapes of effects -/

theorem pc_add_two_le {pc : Word} (h : pc.toNat ≤ 0xFFE) : (pc + 2).toNat ≤ 0x1000 := by
  rw [BitVec.toNat_add]
  exact (Nat.mod_le _ _).trans (Nat.add_le_add_right h 2)

theorem pc_add_four_le {pc : Word} (h : pc.toNat ≤ 0xFFE) : (pc + 4).toNat ≤ 0x1002 := by
  rw [BitVec.toNat_add]
  exact (Nat.mod_le _ _).trans (Nat.add_le_add_right h 4)

theorem addressOf_le (nnn : BitVec 12) : (addressOf nnn).toNat ≤ 0xFFF := by
  rw [addressOf_toNat]
  exact Nat.le_of_lt_succ nnn.isLt

/-- JP V0's sum is below 65536, so it is not reduced (R70). -/
theorem addressOf_add_byte_toNat (nnn : BitVec 12) : (addressOf nnn + b.zeroExtend 16).toNat = nnn.toNat + b.toNat := by
  have hnnn := nnn.isLt
  have hb := b.isLt
  rw [index_add_byte_toNat, addressOf_toNat]
  omega

theorem State.Effect.skip (i : Instr) (c : Bool) : s.Effect i (s.skipIf c) := by
  refine .jump i _ fun h => ?_
  cases c
  · exact (pc_add_two_le h).trans (by decide)
  · exact (pc_add_four_le h).trans (by decide)

/-- An answer that writes its own register alone. -/
theorem State.Effect.writeReg {i : Instr} (hi : regsWritten i = [x]) :
    s.Effect i { s with v := s.v.set x b, pc := s.pc + 2 } := by
  refine .writeRegs i _ s.rndCount s.keyCaptured fun k hk => ?_
  exact s.reg_setReg_ne (by simpa [hi] using hk) b

/-- An answer that writes VF and its own register. -/
theorem State.Effect.writeFlagAndReg {i : Instr} (g : Byte) (hi : regsWritten i = [x, vF]) :
    s.Effect i { s with v := (s.setFlagThenReg g x b).v, pc := s.pc + 2 } := by
  refine .writeRegs i _ s.rndCount s.keyCaptured fun k hk => ?_
  obtain ⟨hkx, hkf⟩ : k ≠ x ∧ k ≠ vF := by simpa [hi] using hk
  exact (s.reg_setFlagThenReg x k g b).trans ((if_neg hkx).trans (if_neg hkf))

end Answers

/-! ## Every answer is an effect -/

/-- Whatever byte the host supplies, an instruction answers a next state, and it is an effect of the instruction. -/
theorem execWith_effect (rnd : Byte) (i : Instr) (s : State) : ∃ t, execWith rnd i s = .next t ∧ s.Effect i t := by
  cases i with
  | cls => exact ⟨_, rfl, .cls _⟩
  | ret =>
    rcases execRet_cases s with ⟨-, h⟩ | ⟨k, hk, h⟩
    · exact ⟨_, h, .fault _ _⟩
    · exact ⟨_, h, .ret k hk⟩
  | call nnn =>
    rcases execCall_cases s nnn with ⟨-, h⟩ | ⟨hsp, h⟩
    · exact ⟨_, h, .fault _ _⟩
    · exact ⟨_, h, .call nnn hsp⟩
  | jp nnn => exact ⟨_, rfl, .jump _ _ fun _ => (addressOf_le nnn).trans (by decide)⟩
  | jpV0 nnn =>
    refine ⟨_, rfl, .jump _ _ fun _ => ?_⟩
    have hnnn := nnn.isLt
    have hv0 := (s.reg 0).isLt
    rw [addressOf_add_byte_toNat]
    omega
  | seImm | sneImm | seReg | sneReg => exact ⟨_, rfl, .skip s _ _⟩
  | skp x =>
    rcases execSkp_cases s x with ⟨-, h⟩ | ⟨k, -, h⟩
    · exact ⟨_, h, .fault _ _⟩
    · exact ⟨_, h, .skip s _ _⟩
  | sknp x =>
    rcases execSknp_cases s x with ⟨-, h⟩ | ⟨k, -, h⟩
    · exact ⟨_, h, .fault _ _⟩
    · exact ⟨_, h, .skip s _ _⟩
  | ldImm | addImm | ldReg | or | and | xor | ldVxDt => exact ⟨_, rfl, .writeReg s _ _ rfl⟩
  | addReg | sub | shr | subn | shl => exact ⟨_, rfl, .writeFlagAndReg s _ _ _ rfl⟩
  | rnd x kk =>
    exact ⟨_, rfl, .writeRegs _ _ _ _ fun k hk => s.reg_setReg_ne (List.ne_of_not_mem_cons hk) (rnd &&& kk)⟩
  | ldVxK x =>
    rcases execLdVxK_cases s x with ⟨-, h⟩ | ⟨k, -, h⟩
    · exact ⟨_, h, .jump _ s.pc fun hpc => hpc.trans (by decide)⟩
    · exact ⟨_, h, .writeRegs _ _ _ _ fun j hj => s.reg_setReg_ne (List.ne_of_not_mem_cons hj) _⟩
  | drw x y n =>
    rcases execDrw_cases s x y n with ⟨-, h⟩ | ⟨-, -, h⟩ | ⟨-, -, h⟩
    · exact ⟨_, h, .fault _ _⟩
    · exact ⟨_, h, .fault _ _⟩
    · exact ⟨_, h, .drw x y n _ _⟩
  | ldI nnn => exact ⟨_, rfl, .ldI nnn _⟩
  | addIVx x => exact ⟨_, rfl, .addIVx x _⟩
  | ldFVx x => exact ⟨_, rfl, .ldFVx x _⟩
  | ldDtVx x => exact ⟨_, rfl, .ldDtVx x _⟩
  | ldStVx x => exact ⟨_, rfl, .ldStVx x _⟩
  | ldBVx x =>
    rcases execLdBVx_cases s x with ⟨-, h⟩ | ⟨-, h⟩
    · exact ⟨_, h, .fault _ _⟩
    · exact ⟨_, h, .ldBVx x _ _⟩
  | ldMemVx x =>
    rcases execLdMemVx_cases s x with ⟨-, h⟩ | ⟨-, h⟩
    · exact ⟨_, h, .fault _ _⟩
    · exact ⟨_, h, .ldMemVx x _ _ _⟩
  | ldVxMem x =>
    rcases execLdVxMem_cases s x with ⟨-, h⟩ | ⟨-, h⟩
    · exact ⟨_, h, .fault _ _⟩
    · exact ⟨_, h, .ldVxMem x _⟩

/-- The model's own meaning is the one under the free byte (R86; log entry 4). -/
theorem execWith_hostRnd (i : Instr) (s : State) : execWith (Config.hostRnd s.rndCount) i s = exec i s := by
  cases i <;> rfl

section Frames

variable {rnd : Byte} {i : Instr} {s t : State}

theorem effect_of_execWith (h : execWith rnd i s = .next t) : s.Effect i t := by
  obtain ⟨u, hu, he⟩ := execWith_effect rnd i s
  obtain rfl : u = t := Host.Outcome.next.inj (hu.symm.trans h)
  exact he

theorem effect_of_exec (h : exec i s = .next t) : s.Effect i t :=
  effect_of_execWith ((execWith_hostRnd i s).trans h)

/-- A running core that an instruction halts has taken a fault (R112). -/
theorem State.Effect.eq_takeFault (h : s.Effect i t) (hrun : s.Running) (hhalt : t.execEnabled = false) :
    ∃ f, t = s.takeFault f := by
  cases h with
  | fault _ f => exact ⟨f, rfl⟩
  | _ => exact absurd (hrun.symm.trans hhalt) (by decide)

end Frames

/-! ## The obligations -/

/-- Settles O43: each effect writes only registers that the list names; FX65 keeps those above X. -/
theorem noOtherRegisterIsWritten : Obligations.NoOtherRegisterIsWritten := by
  unfold Obligations.NoOtherRegisterIsWritten
  intro i s t h k hk
  cases effect_of_exec h with
  | writeRegs _ _ _ _ hv => exact hv k hk
  | drw x y n fb b => exact s.reg_setReg_ne (List.ne_of_not_mem_cons hk) b
  | ldVxMem x w =>
    have hkx : ¬ k ≤ x := by simpa [regsWritten] using hk
    exact (s.regsFromMem_get x k).trans (if_neg hkx)
  | _ => rfl

/-- Settles O44: the two effects with a new memory are those of FX33 and FX55. -/
theorem onlyBcdAndBlockStoreWriteMemory : Obligations.OnlyBcdAndBlockStoreWriteMemory := by
  unfold Obligations.OnlyBcdAndBlockStoreWriteMemory
  intro i s t h hbcd hstore
  cases effect_of_exec h with
  | ldBVx x => exact absurd rfl (hbcd x)
  | ldMemVx x => exact absurd rfl (hstore x)
  | _ => rfl

/-- Settles O45: the two effects with a new stack pointer are those of RET and CALL. -/
theorem onlyCallAndReturnTouchTheStack : Obligations.OnlyCallAndReturnTouchTheStack := by
  unfold Obligations.OnlyCallAndReturnTouchTheStack
  intro i s t h hret hcall
  cases effect_of_exec h with
  | ret => exact absurd rfl hret
  | call nnn => exact absurd rfl (hcall nnn)
  | _ => exact ⟨rfl, rfl⟩

/-- Settles O46: the two effects with a new framebuffer are those of CLS and DRW, and both set the mark. -/
theorem onlyClsAndDrawTouchTheScreen : Obligations.OnlyClsAndDrawTouchTheScreen := by
  unfold Obligations.OnlyClsAndDrawTouchTheScreen
  intro i s t h
  cases effect_of_exec h with
  | cls => exact ⟨fun hcls _ => absurd rfl hcls, fun _ => rfl⟩
  | drw x y n => exact ⟨fun _ hdrw => absurd rfl (hdrw x y n), fun _ => rfl⟩
  | _ => exact ⟨fun _ _ => ⟨rfl, rfl⟩, id⟩

/-- Settles O47: each effect with a new timer or a new `I` is that of an instruction the rule names. -/
theorem timersAndIndexHaveTheirWriters : Obligations.TimersAndIndexHaveTheirWriters := by
  unfold Obligations.TimersAndIndexHaveTheirWriters
  intro i s t h
  cases effect_of_exec h with
  | ldDtVx x => exact ⟨fun hdt => absurd rfl (hdt x), fun _ => rfl, fun _ _ => rfl⟩
  | ldStVx x => exact ⟨fun _ => rfl, fun hst => absurd rfl (hst x), fun _ _ => rfl⟩
  | ldI nnn => exact ⟨fun _ => rfl, fun _ => rfl, fun hldI _ => absurd rfl (hldI nnn)⟩
  | addIVx x =>
    refine ⟨fun _ => rfl, fun _ => rfl, fun _ hi => ?_⟩
    obtain ⟨hne, _, _, _⟩ := hi x
    exact absurd rfl hne
  | ldFVx x =>
    refine ⟨fun _ => rfl, fun _ => rfl, fun _ hi => ?_⟩
    obtain ⟨_, hne, _, _⟩ := hi x
    exact absurd rfl hne
  | ldMemVx x =>
    refine ⟨fun _ => rfl, fun _ => rfl, fun _ hi => ?_⟩
    obtain ⟨_, _, hne, _⟩ := hi x
    exact absurd rfl hne
  | ldVxMem x =>
    refine ⟨fun _ => rfl, fun _ => rfl, fun _ hi => ?_⟩
    obtain ⟨_, _, _, hne⟩ := hi x
    exact absurd rfl hne
  | _ => exact ⟨fun _ => rfl, fun _ => rfl, fun _ _ => rfl⟩

end Sys2Proof.Machine
end

section
/-!
SUPPORT. One STEP (spec sections 30.2 and 60.3): what the engine answers in each of its cases, the relation that every STEP
is in, and the invariant that it keeps. From them O59 and O60.
-/
namespace Sys2Proof.Machine

variable {s t : State} {rnd : Byte}

/-- The big-endian word at `pc`, which the fetch reads inside memory (R39). -/
abbrev State.wordAtPc (s : State) : Word := s.readByte s.pc.toNat ++ s.readByte (s.pc.toNat + 1)

/-! ## The cases of the engine -/

section Engine

variable (ex : Instr → State → Answer)

theorem engine_halted (hhalt : s.execEnabled = false) : engine ex s = .next s := by simp [engine, hhalt]

theorem engine_outside (hrun : s.Running) (hout : ¬ InSpace s.pc.toNat 2) :
    engine ex s = raise .addressOutOfRange s := by
  simp [engine, hrun, s.fetch_outside hout]

theorem engine_unknown (hrun : s.Running) (hin : InSpace s.pc.toNat 2) (hd : decode s.wordAtPc = .unknown) :
    engine ex s = raise .unknownOpcode (s.setIr s.wordAtPc) := by
  simp [engine, hrun, s.fetch_of_inSpace hin, hd]

theorem engine_op {i : Instr} (hrun : s.Running) (hin : InSpace s.pc.toNat 2) (hd : decode s.wordAtPc = .op i) :
    engine ex s = ex i (s.setIr s.wordAtPc) := by
  simp [engine, hrun, s.fetch_of_inSpace hin, hd]

end Engine

/-- The model's own step is the STEP transaction under the free byte (log entry 4). -/
theorem step_eq_stepWith (s : State) : step s = stepWith (Config.hostRnd s.rndCount) s := by
  have hex : ∀ i w, exec i (s.setIr w) = execWith (Config.hostRnd s.rndCount) i (s.setIr w) :=
    fun i w => (execWith_hostRnd i (s.setIr w)).symm
  simp only [step, stepWith, engine, hex]

/-! ## What a STEP can do -/

/-- `s.StepsTo t`: one STEP may lead from `s` to `t`, by one of the engine's four cases (R46, R111). -/
inductive State.StepsTo (s : State) : State → Prop
  | halted (hhalt : s.execEnabled = false) : s.StepsTo s
  | outside (hrun : s.Running) (hout : ¬ InSpace s.pc.toNat 2) : s.StepsTo (s.takeFault .addressOutOfRange)
  | unknown (hrun : s.Running) : s.StepsTo ((s.setIr s.wordAtPc).takeFault .unknownOpcode)
  | op (hrun : s.Running) (hin : InSpace s.pc.toNat 2) (i : Instr) (hd : decode s.wordAtPc = .op i) (t : State)
      (he : (s.setIr s.wordAtPc).Effect i t) : s.StepsTo t

/-- Whatever byte the host supplies, STEP answers a next state, by one of the four cases. -/
theorem stepWith_stepsTo (rnd : Byte) (s : State) : ∃ t, stepWith rnd s = .next t ∧ s.StepsTo t := by
  by_cases hrun : s.Running
  · by_cases hin : InSpace s.pc.toNat 2
    · cases hd : decode s.wordAtPc with
      | unknown => exact ⟨_, engine_unknown _ hrun hin hd, .unknown hrun⟩
      | op i =>
        obtain ⟨t, ht, he⟩ := execWith_effect rnd i (s.setIr s.wordAtPc)
        exact ⟨t, (engine_op _ hrun hin hd).trans ht, .op hrun hin i hd t he⟩
    · exact ⟨_, engine_outside _ hrun hin, .outside hrun hin⟩
  · have hhalt : s.execEnabled = false := Bool.eq_false_iff.mpr hrun
    exact ⟨s, engine_halted _ hhalt, .halted hhalt⟩

theorem stepsTo_of_stepWith (h : stepWith rnd s = .next t) : s.StepsTo t := by
  obtain ⟨u, hu, hs⟩ := stepWith_stepsTo rnd s
  obtain rfl : u = t := Host.Outcome.next.inj (hu.symm.trans h)
  exact hs

theorem stepsTo_of_step (h : step s = .next t) : s.StepsTo t :=
  stepsTo_of_stepWith ((step_eq_stepWith s).symm.trans h)

/-! ## The invariant -/

theorem State.Inv.setIr (h : s.Inv) (w : Word) : (s.setIr w).Inv := ⟨h.memWf, h.halt, h.pc⟩

/-- A fault halts the core and latches a code, and moves nothing (D11). -/
theorem State.Inv.takeFault (h : s.Inv) (f : Fault) : (s.takeFault f).Inv :=
  ⟨h.memWf, iff_of_false Bool.false_ne_true (Option.some_ne_none f), h.pc⟩

theorem State.Inv.writeBytes (h : s.Inv) (a : Nat) (bs : List Byte) : (s.writeBytes a bs).Inv :=
  ⟨Memory.writeBytes_wf bs a h.memWf, h.halt, h.pc⟩

/-- An instruction fetched from memory keeps the invariant: CALL pushes an address it was fetched from, RET returns behind
such an address, and every other new `pc` is bounded (R20). -/
theorem State.Effect.keeps_inv {i : Instr} (he : s.Effect i t) (h : s.Inv) (hfetch : s.pc.toNat ≤ 0xFFE) : t.Inv := by
  obtain ⟨hmem, hhalt, hpc, hslots⟩ := h
  have hadvance : (s.pc + 2).toNat ≤ 0x10FE := (pc_add_two_le hfetch).trans (by decide)
  cases he with
  | fault _ f => exact State.Inv.takeFault ⟨hmem, hhalt, hpc, hslots⟩ f
  | jump _ w hw => exact ⟨hmem, hhalt, hw hfetch, hslots⟩
  | ret k hk =>
    have hreturn : (s.stack[k] + 2).toNat ≤ 0x1000 := pc_add_two_le (hslots k (by omega))
    exact ⟨hmem, hhalt, hreturn.trans (by decide), fun j hj => hslots j (hk ▸ Nat.lt_succ_of_lt hj)⟩
  | call nnn hsp =>
    refine ⟨hmem, hhalt, (addressOf_le nnn).trans (by decide), fun j hj => ?_⟩
    rw [stack_set_get s.stack hsp s.pc j]
    split
    · exact hfetch
    · exact hslots j (lt_of_le_of_ne (Nat.le_of_lt_succ hj) ‹_›)
  | ldBVx _ a bs => exact ⟨Memory.writeBytes_wf bs a hmem, hhalt, hadvance, hslots⟩
  | ldMemVx _ a bs => exact ⟨Memory.writeBytes_wf bs a hmem, hhalt, hadvance, hslots⟩
  | _ => exact ⟨hmem, hhalt, hadvance, hslots⟩

theorem State.StepsTo.keeps_inv (hs : s.StepsTo t) (h : s.Inv) : t.Inv := by
  cases hs with
  | halted => exact h
  | outside => exact h.takeFault _
  | unknown => exact (h.setIr _).takeFault _
  | op _ hin i _ _ he => exact he.keeps_inv (h.setIr _) (Nat.le_of_succ_le_succ (hin 1 (by decide)))

/-- Settles O59: each case of the engine keeps the invariant, and an instruction runs only where it was fetched from memory. -/
theorem stepKeepsTheInvariant : Obligations.StepKeepsTheInvariant := by
  unfold Obligations.StepKeepsTheInvariant
  intro s t hinv h
  exact (stepsTo_of_step h).keeps_inv hinv

theorem State.Inv.load (h : s.Inv) (src : Option (List Byte)) : (s.load src).Inv := by
  unfold State.load
  split
  · exact h
  · split
    · exact h
    · exact h.writeBytes _ _

/-- The cells a soft reset keeps are in canonical form; the rest is a hard reset's (R134). -/
theorem State.Inv.softReset (h : s.Inv) : s.softReset.Inv :=
  ⟨Memory.filter_wf _ h.memWf, s.hardReset_inv.halt, s.hardReset_inv.pc⟩

theorem transact_keeps_inv {a : Transaction} (h : s.Inv) (ha : transact a s = .next t) : t.Inv := by
  cases a with
  | step rnd => exact (stepsTo_of_stepWith ha).keeps_inv h
  | load src => exact Host.Outcome.next.inj ha ▸ h.load src
  | hardReset => exact Host.Outcome.next.inj ha ▸ s.hardReset_inv
  | softReset => exact Host.Outcome.next.inj ha ▸ h.softReset
  | tick | key | fbAck | keycapAck | pause => exact Host.Outcome.next.inj ha ▸ ⟨h.memWf, h.halt, h.pc⟩

/-- Settles O60, by induction on the sequence. -/
theorem transactionsKeepTheInvariant : Obligations.TransactionsKeepTheInvariant := by
  unfold Obligations.TransactionsKeepTheInvariant
  intro as
  induction as with
  | nil =>
    intro s t hinv h
    exact Host.Outcome.next.inj h ▸ hinv
  | cons a as ih =>
    intro s t hinv h
    cases ha : transact a s with
    | next u =>
      rw [transactAll, ha] at h
      exact ih u t (transact_keeps_inv hinv ha) h
    | fault f => simp [transactAll, ha] at h
    | refused r => simp [transactAll, ha] at h

end Sys2Proof.Machine
end

section
/-!
SUPPORT. The memory as the map it stands for (spec section 20; log entry 6): a byte read after a byte write, and the listed
cells of a canonical memory read back from its reads. From them O14, O51 and O52.
-/
namespace Sys2Proof.Machine

/-! ## Reads after writes -/

theorem State.readByte_writeByte (s : State) {a : Nat} (ha : a ≤ 0xFFF) (w : Byte) (b : Nat) :
    (s.writeByte a w).readByte b = if b = a then w else s.readByte b :=
  Memory.read_write s.params.font s.mem (Nat.lt_succ_of_le ha) w b

/-- Settles O51: a write inside memory changes the read of its own cell alone. -/
theorem readAfterWrite : Obligations.ReadAfterWrite := by
  unfold Obligations.ReadAfterWrite
  intro s a b w ha
  exact s.readByte_writeByte ha w b

/-- Settles O14: the write of the second byte keeps the first, so the fetch reads both as written. -/
theorem fetchSeesTheLastWrite : Obligations.FetchSeesTheLastWrite := by
  unfold Obligations.FetchSeesTheLastWrite
  intro s hi lo hin
  have hsecond : s.pc.toNat + 1 ≤ 0xFFF := hin 1 (by decide)
  have hfetch := ((s.writeByte s.pc.toNat hi).writeByte (s.pc.toNat + 1) lo).fetch_of_inSpace hin
  rw [hfetch]
  simp [State.readByte_writeByte _ hsecond, s.readByte_writeByte (Nat.le_of_succ_le hsecond)]

/-! ## The canonical form -/

/-- In a memory with rising addresses each listed cell is the one its address finds. -/
theorem Memory.lookup_eq_some_iff {m : Memory} (h : m.Pairwise fun c d => c.1 < d.1) (a : Nat) (v : Byte) :
    Memory.lookup m a = some v ↔ (a, v) ∈ m := by
  induction m with
  | nil => simp [Memory.lookup]
  | cons c m ih =>
    obtain ⟨b, w⟩ := c
    obtain ⟨hhead, htail⟩ := List.pairwise_cons.mp h
    by_cases hab : a = b
    · subst hab
      have hnot : (a, v) ∉ m := fun hm => lt_irrefl a (hhead _ hm)
      simp [Memory.lookup, hnot, eq_comm]
    · simp [Memory.lookup, hab, ih htail]

/-- A canonical memory lists exactly the cells that read other than their reset contents. -/
theorem Memory.mem_iff_read {font : Vector Byte 80} {m : Memory} (h : Memory.wf font m) (a : Nat) (v : Byte) :
    (a, v) ∈ m ↔ Memory.read font m a = v ∧ v ≠ resetByte font a := by
  rw [← Memory.lookup_eq_some_iff h.1]
  constructor
  · intro hl
    have hcell := h.2 (a, v) ((Memory.lookup_eq_some_iff h.1 a v).mp hl)
    exact ⟨by rw [Memory.read, hl]; rfl, hcell.2⟩
  · rintro ⟨rfl, hne⟩
    cases hl : Memory.lookup m a with
    | none => exact absurd (by rw [Memory.read, hl]; rfl) hne
    | some w => rw [Memory.read, hl]; rfl

theorem Memory.wf.nodup {font : Vector Byte 80} {m : Memory} (h : Memory.wf font m) : m.Nodup :=
  h.1.imp fun hlt => ne_of_apply_ne Prod.fst (ne_of_lt hlt)

/-- Settles O52: the two memories list the same cells, each in the order of the addresses. -/
theorem equalReadsMeanEqualMemory : Obligations.EqualReadsMeanEqualMemory := by
  unfold Obligations.EqualReadsMeanEqualMemory
  intro font m m' h h' hread
  have hmem (c : Host.Cell) : c ∈ m ↔ c ∈ m' := by
    rw [Memory.mem_iff_read h, Memory.mem_iff_read h', hread]
  have hperm : m.Perm m' := (List.perm_ext_iff_of_nodup (Memory.wf.nodup h) (Memory.wf.nodup h')).mpr hmem
  exact hperm.eq_of_pairwise (fun c d _ _ hcd hdc => absurd hdc (lt_asymm hcd)) h.1 h'.1

end Sys2Proof.Machine
end

section
/-!
SUPPORT. The engine and the host (spec sections 30.2, 60.3 and 60.5): what STEP answers and reports, halted and running, and
which transactions start a halted core. From them O7 to O13, O15 and O50.
-/
namespace Sys2Proof.Machine

variable {s t : State} {rnd : Byte}

/-! ## Single steps -/

/-- Settles O7: the engine's case of a decoded word. -/
theorem stepRunsTheDecodedInstruction : Obligations.StepRunsTheDecodedInstruction := by
  unfold Obligations.StepRunsTheDecodedInstruction
  intro s i hrun hin hd
  exact engine_op exec hrun hin hd

/-- Settles O8: the engine's two faults. -/
theorem engineFaultsAreTaken : Obligations.EngineFaultsAreTaken := by
  unfold Obligations.EngineFaultsAreTaken
  intro s hrun
  exact ⟨engine_outside exec hrun, engine_unknown exec hrun⟩

/-- Settles O12: RND alone reads the byte, and the model's byte is the one at its counter. -/
theorem stepIsTheStepTransaction : Obligations.StepIsTheStepTransaction := by
  unfold Obligations.StepIsTheStepTransaction
  exact step_eq_stepWith

/-- Settles O11: STEP answers in each case of the engine, every other transaction by its definition. -/
theorem everyTransactionAnswersNext : Obligations.EveryTransactionAnswersNext := by
  unfold Obligations.EveryTransactionAnswersNext
  intro a s
  cases a with
  | step rnd =>
    obtain ⟨t, ht, -⟩ := stepWith_stepsTo rnd s
    exact ⟨t, ht⟩
  | tick | key | fbAck | keycapAck | pause | load | hardReset | softReset => exact ⟨_, rfl⟩

/-- A running core that a STEP halts has changed nothing but `ir` before it took a fault (R112). -/
theorem State.StepsTo.eq_takeFault (hs : s.StepsTo t) (hrun : s.Running) (hhalt : t.execEnabled = false) :
    ∃ w f, t = (s.setIr w).takeFault f := by
  cases hs with
  | halted => exact absurd (hrun.symm.trans hhalt) (by decide)
  | outside => exact ⟨s.ir, _, rfl⟩
  | unknown => exact ⟨_, _, rfl⟩
  | op _ _ i _ _ he => exact ⟨_, he.eq_takeFault hrun hhalt⟩

/-- Settles O10: the step took a fault, in the state as it was but for `ir`. -/
theorem faultsArePrecise : Obligations.FaultsArePrecise := by
  unfold Obligations.FaultsArePrecise
  intro s t hrun h hhalt
  obtain ⟨w, f, rfl⟩ := (stepsTo_of_step h).eq_takeFault hrun hhalt
  exact ⟨rfl, Option.some_ne_none f⟩

/-! ## What STEP reports -/

theorem response_step (h : stepWith rnd s = .next t) : response (.step rnd) s = .stepped (stepResult s t) := by
  simp [response, h]

theorem stepResult_halted (hhalt : s.execEnabled = false) : stepResult s t = .halted := by simp [stepResult, hhalt]

theorem stepResult_fault {f : Fault} (hrun : s.Running) (hhalt : t.execEnabled = false) (hf : t.lastError = some f) :
    stepResult s t = .fault f := by
  simp [stepResult, hrun, hhalt, hf]

theorem stepResult_op {i : Instr} (hrun : s.Running) (hrun' : t.Running) (hin : InSpace s.pc.toNat 2)
    (hd : decode s.wordAtPc = .op i) : stepResult s t = if waitsForKey i s then .keyWait else .executed := by
  simp [stepResult, hrun, hrun', s.fetch_of_inSpace hin, hd]

theorem waitsForKey_iff (i : Instr) (s : State) :
    waitsForKey i s = true ↔ (∃ x, i = .ldVxK x) ∧ ∀ k : Key, s.key[k] = false := by
  rw [← s.lastKeyDown_eq_none]
  cases i <;> simp [waitsForKey]

/-- Settles O13: a STEP that halts the core took a fault; one that leaves it running executed a decoded instruction. -/
theorem stepReportsItsOutcome : Obligations.StepReportsItsOutcome := by
  unfold Obligations.StepReportsItsOutcome
  intro s t rnd hrun h
  have hsteps := stepsTo_of_stepWith h
  have hresponse := response_step h
  have hcompleted (hrun' : t.Running) : ∃ i, decode s.wordAtPc = .op i ∧
      response (.step rnd) s = .stepped (if waitsForKey i s then .keyWait else .executed) := by
    cases hsteps with
    | halted hhalt => exact absurd (hrun.symm.trans hhalt) (by decide)
    | outside => exact absurd hrun' Bool.false_ne_true
    | unknown => exact absurd hrun' Bool.false_ne_true
    | op _ hin i hd => exact ⟨i, hd, stepResult_op hrun hrun' hin hd ▸ hresponse⟩
  refine ⟨fun hhalt => ?fault, fun hrun' hwaits hkeys => ?keyWait, fun hrun' hnot => ?executed⟩
  case fault =>
    obtain ⟨w, f, rfl⟩ := hsteps.eq_takeFault hrun hhalt
    exact ⟨f, rfl, stepResult_fault (f := f) hrun hhalt rfl ▸ hresponse⟩
  case keyWait =>
    obtain ⟨i, hd, hr⟩ := hcompleted hrun'
    obtain ⟨x, hx⟩ := hwaits
    obtain rfl : i = .ldVxK x := Decoded.op.inj (hd.symm.trans hx)
    rw [hr, if_pos ((waitsForKey_iff _ s).mpr ⟨⟨x, rfl⟩, hkeys⟩)]
  case executed =>
    obtain ⟨i, hd, hr⟩ := hcompleted hrun'
    have hwaits : ¬ waitsForKey i s = true := fun hw => by
      obtain ⟨⟨x, rfl⟩, hkeys⟩ := (waitsForKey_iff i s).mp hw
      exact hnot ⟨⟨x, hd⟩, hkeys⟩
    rw [hr, if_neg hwaits]

/-! ## Steps that stay in place -/

theorem run_succ_of_step (h : step s = .next t) (k : Nat) : core.run (k + 1) s = core.run k t := by
  have hcore : core.step s = .next t := h
  simp only [Host.Core.run, hcore]

/-- A state that steps to itself stays for any number of steps. -/
theorem run_of_step_self (h : step s = .next s) (k : Nat) : core.run k s = .next s := by
  induction k with
  | zero => rfl
  | succ k ih => exact (run_succ_of_step h k).trans ih

/-- Settles O9: a halted core steps to itself. -/
theorem haltedCoreNeverMoves : Obligations.HaltedCoreNeverMoves := by
  unfold Obligations.HaltedCoreNeverMoves
  intro s hhalt
  have hstep (rnd : Byte) : stepWith rnd s = .next s := engine_halted _ hhalt
  refine ⟨run_of_step_self (engine_halted exec hhalt), fun rnd => ⟨hstep rnd, ?_⟩⟩
  rw [response_step (hstep rnd), stepResult_halted hhalt]

theorem exec_ldVxK_waits (x : Reg) (h : ∀ k : Key, s.key[k] = false) : exec (.ldVxK x) s = .next s := by
  change execLdVxK x s = _
  rw [execLdVxK, s.lastKeyDown_eq_none.mpr h]

/-- Settles O15: the first step leaves only `ir` changed, to a state that steps to itself, since no instruction depends on
`ir`. -/
theorem selfJumpAndKeyWaitStayInPlace : Obligations.SelfJumpAndKeyWaitStayInPlace := by
  unfold Obligations.SelfJumpAndKeyWaitStayInPlace
  intro s k hrun hin hloop
  have hstays (w : Word) : step (s.setIr w) = .next (s.setIr s.wordAtPc) := by
    rcases hloop with ⟨nnn, hd, hself⟩ | ⟨⟨x, hd⟩, hkeys⟩
    · have hpc : addressOf nnn = s.pc := BitVec.eq_of_toNat_eq ((addressOf_toNat nnn).trans hself)
      have hjump : exec (.jp nnn) (s.setIr s.wordAtPc) = .next (s.setIr s.wordAtPc) := by
        rw [exec_jp, hpc]
        rfl
      exact (engine_op (s := s.setIr w) exec hrun hin hd).trans hjump
    · exact (engine_op (s := s.setIr w) exec hrun hin hd).trans (exec_ldVxK_waits x hkeys)
  exact (run_succ_of_step (hstays s.ir) k).trans (run_of_step_self (hstays s.wordAtPc) k)

/-! ## Restarting -/

theorem State.load_execEnabled (s : State) (src : Option (List Byte)) : (s.load src).execEnabled = s.execEnabled := by
  unfold State.load
  split
  · rfl
  · split <;> rfl

/-- Settles O50: a halted core steps to itself, and no host transaction but a reset writes `exec_enabled`. -/
theorem onlyResetsRestartTheCore : Obligations.OnlyResetsRestartTheCore := by
  unfold Obligations.OnlyResetsRestartTheCore
  intro a s t h hhalt hrun
  have hkept (hu : t.execEnabled = s.execEnabled) : a = .hardReset ∨ a = .softReset :=
    absurd (hrun.symm.trans (hu.trans hhalt)) (by decide)
  cases a with
  | hardReset => exact .inl rfl
  | softReset => exact .inr rfl
  | step rnd =>
    have hself : stepWith rnd s = .next s := engine_halted _ hhalt
    exact hkept (Host.Outcome.next.inj (h.symm.trans hself) ▸ rfl)
  | load src => exact hkept (Host.Outcome.next.inj h ▸ s.load_execEnabled src)
  | tick | key | fbAck | keycapAck | pause => exact hkept (Host.Outcome.next.inj h ▸ rfl)

end Sys2Proof.Machine
end

section
/-!
SUPPORT. The host's transactions (spec sections 60.6 and 70): the countdown, the copy of an image, and the bytes that each
reset leaves. From them O53 to O57.
-/
namespace Sys2Proof.Machine

variable (s : State)

/-! ## TICK and the flags -/

theorem countDown_zero : countDown 0 = 0 := rfl

theorem countDown_toNat_of_pos {b : Byte} (h : b.toNat > 0) : (countDown b).toNat + 1 = b.toNat := by
  have hb := b.isLt
  have hne : b ≠ 0 := fun h0 => by simp [h0] at h
  rw [countDown, if_neg hne, byte_sub_toNat]
  change (b.toNat + 256 - 1) % 256 + 1 = b.toNat
  omega

/-- Settles O53: both timers count down, each by itself. -/
theorem tickCountsDownToZero : Obligations.TickCountsDownToZero := by
  unfold Obligations.TickCountsDownToZero
  intro s
  refine ⟨s.tick, rfl, rfl, countDown_toNat_of_pos, fun h => ?_, countDown_toNat_of_pos, fun h => ?_⟩
  · exact (congrArg countDown h).trans countDown_zero
  · exact (congrArg countDown h).trans countDown_zero

/-- Settles O54: the key written reads as written, and each of the other three writes its own flag. -/
theorem hostWritesOneFlag : Obligations.HostWritesOneFlag := by
  unfold Obligations.HostWritesOneFlag
  intro s k b
  refine ⟨⟨_, rfl, rfl, fun j => ?_⟩, rfl, rfl, rfl⟩
  simp [Vector.getElem_set, Fin.ext_iff, eq_comm]

/-! ## LOAD -/

variable {image : List Byte}

theorem State.load_of_le (h : image.length ≤ 0xDFF) : s.load (some image) = s.writeBytes 0x200 image :=
  if_neg (Nat.not_lt.mpr h)

theorem State.load_of_gt (h : image.length > 0xDFF) : s.load (some image) = s := if_pos h

theorem loadResult_of_le (h : image.length ≤ 0xDFF) : loadResult (some image) = .ok := if_neg (Nat.not_lt.mpr h)

theorem loadResult_of_gt (h : image.length > 0xDFF) : loadResult (some image) = .imageTooLarge := if_pos h

/-- Settles O55: an image that fits is a block write inside memory; any other leaves the state. -/
theorem loadCopiesTheImage : Obligations.LoadCopiesTheImage := by
  unfold Obligations.LoadCopiesTheImage
  intro s image
  refine ⟨fun h => ⟨?copies, ?reports⟩, fun h => ⟨?tooLarge, ?reportsTooLarge⟩, rfl, rfl⟩
  case copies =>
    have hspace : 0x200 + image.length ≤ memSize := (Nat.add_le_add_left h 0x200).trans (by decide)
    exact ⟨_, congrArg Host.Outcome.next (s.load_of_le h), rfl,
      fun k b hk => s.readByte_writeBytes_of_get hspace hk, s.writeBytes_keepsBytesBut hspace⟩
  case reports => exact congrArg Response.loaded (loadResult_of_le h)
  case tooLarge => exact congrArg Host.Outcome.next (s.load_of_gt h)
  case reportsTooLarge => exact congrArg Response.loaded (loadResult_of_gt h)

/-! ## The resets -/

theorem resetByte_font (font : Vector Byte 80) {a : Nat} (h : a < 80) : resetByte font a = font[a] := dif_pos h

theorem resetByte_zero (font : Vector Byte 80) {a : Nat} (h : 80 ≤ a) : resetByte font a = 0 :=
  dif_neg (Nat.not_lt.mpr h)

/-- After a hard reset every cell holds its reset contents (R133). -/
theorem State.readByte_hardReset (a : Nat) : s.hardReset.readByte a = resetByte s.params.font a := rfl

/-- After a soft reset the cells below 0x200 hold their reset contents, the others what they held (R134). -/
theorem State.readByte_softReset (a : Nat) :
    s.softReset.readByte a = if 0x200 ≤ a then s.readByte a else resetByte s.params.font a := by
  change (Memory.lookup (s.mem.filter fun c => decide (0x200 ≤ c.1)) a).getD (resetByte s.params.font a) = _
  rw [Memory.lookup_filter s.mem (fun b => decide (0x200 ≤ b))]
  by_cases h : 0x200 ≤ a
  · simp [h, State.readByte, Memory.read]
  · simp [h]

/-- Settles O56: the reads of the two resets, and the fields of a hard reset, which a soft reset keeps. -/
theorem resetsLeaveTheTableOfResetValues : Obligations.ResetsLeaveTheTableOfResetValues := by
  unfold Obligations.ResetsLeaveTheTableOfResetValues
  intro s
  refine ⟨s.hardReset, s.softReset, rfl, rfl, fun a ha => ?font, fun a hlow hhigh => ?zeroes, fun a ha => ?program,
    rfl, rfl, rfl, rfl, rfl, rfl, rfl, fun k => ?regs, fun k => ?stack, fun k => ?keys, Framebuffer.get_blank,
    rfl, rfl, rfl, rfl, rfl⟩
  case font =>
    rw [s.readByte_hardReset, s.readByte_softReset, if_neg (by omega), resetByte_font _ ha]
    exact ⟨rfl, rfl⟩
  case zeroes =>
    rw [s.readByte_hardReset, s.readByte_softReset, if_neg (by omega), resetByte_zero _ hlow]
    exact ⟨rfl, rfl⟩
  case program =>
    rw [s.readByte_hardReset, s.readByte_softReset, if_pos ha, resetByte_zero _ (by omega)]
    exact ⟨rfl, rfl⟩
  case regs => simp [State.reg, State.hardReset, State.reset]
  case stack => simp [State.hardReset, State.reset]
  case keys => simp [State.hardReset, State.reset]

/-- Settles O57: a hard reset keeps the parameters and the count, and writes every other field as `State.reset` has it. -/
theorem resetStateIsAHardReset : Obligations.ResetStateIsAHardReset := by
  unfold Obligations.ResetStateIsAHardReset
  refine ⟨fun s hparams hcount => ?_, by decide, by decide⟩
  change Host.Outcome.next { State.reset with params := s.params, rndCount := s.rndCount } = _
  rw [hparams, hcount]

end Sys2Proof.Machine
end

section
/-!
SUPPORT. The remaining single instructions: JP V0, RND, LD F and LD Vx, K, and the round trips of CALL with RET and of the
block store with the block load (spec sections 40, 41, 42 and 44). From them O19, O22, O29, O31, O35 and O41.
-/
namespace Sys2Proof.Machine

variable (s : State) (x : Reg) (kk : Byte) (nnn : BitVec 12)

/-! ## The answer of each instruction -/

theorem exec_jpV0 : exec (.jpV0 nnn) s = .next { s with pc := addressOf nnn + (s.reg 0).zeroExtend 16 } := rfl

theorem exec_ldFVx : exec (.ldFVx x) s = .next { s with i := glyphAddress (s.reg x), pc := s.pc + 2 } := rfl

/-- RND under a given byte is the register write without a flag, with one more byte counted (R86; log entry 4). -/
theorem execWith_rnd (rnd : Byte) : execWith rnd (.rnd x kk) s =
    .next { s with v := (s.setReg x (rnd &&& kk)).v, pc := s.pc + 2, rndCount := s.rndCount + 1 } := rfl

/-- LD Vx, K with a key down takes the highest one (R102). -/
theorem exec_ldVxK_takes (k : Key) (hk : s.key[k] = true) (hhigh : ∀ j : Key, k < j → s.key[j] = false) :
    exec (.ldVxK x) s = .next { s with
      v := (s.setReg x (BitVec.ofNat 8 k.val)).v, keyCaptured := true, pc := s.pc + 2 } := by
  change execLdVxK x s = _
  rw [execLdVxK, (s.lastKeyDown_eq_some k).mpr ⟨hk, hhigh⟩]
  rfl

/-! ## Values -/

/-- Five times a byte is below 65536 (R90). -/
theorem glyphAddress_toNat (b : Byte) : (glyphAddress b).toNat = b.toNat * 5 := by
  have hb := b.isLt
  rw [glyphAddress, BitVec.toNat_ofNat, glyphStride_eq]
  omega

theorem keyByte_toNat (k : Key) : (BitVec.ofNat 8 k.val).toNat = k.val :=
  Nat.mod_eq_of_lt (k.isLt.trans (by decide))

/-! ## The obligations -/

/-- Settles O22: the sum of a 12-bit address and a byte is not reduced. -/
theorem jumpWithOffsetAddsV0 : Obligations.JumpWithOffsetAddsV0 := by
  unfold Obligations.JumpWithOffsetAddsV0
  intro nnn s
  exact ⟨decode_jpV0 nnn, _, exec_jpV0 s nnn, rfl, addressOf_add_byte_toNat (s.reg 0) nnn⟩

/-- Settles O29: RND under any byte, the free byte being one. -/
theorem randomIsTheHostByteMasked : Obligations.RandomIsTheHostByteMasked := by
  unfold Obligations.RandomIsTheHostByteMasked
  intro x kk s
  have hwith (rnd : Byte) : ∃ t, execWith rnd (.rnd x kk) s = .next t ∧
      t = { s with v := t.v, pc := s.pc + 2, rndCount := s.rndCount + 1 } ∧ t.reg x = rnd &&& kk ∧
      s.KeepsRegsBut t [x] :=
    ⟨_, execWith_rnd s x kk rnd, rfl, s.reg_setReg_self x _, fun _ hk =>
      s.reg_setReg_ne (List.ne_of_not_mem_cons hk) _⟩
  exact ⟨decode_rnd x kk, execWith_hostRnd (.rnd x kk) s ▸ hwith (Config.hostRnd s.rndCount), hwith⟩

/-- Settles O31: LD F writes `I` and `pc` alone, `I` with the unreduced product. -/
theorem fontAddressIsFiveTimesTheRegister : Obligations.FontAddressIsFiveTimesTheRegister := by
  unfold Obligations.FontAddressIsFiveTimesTheRegister
  intro x s
  exact ⟨decode_ldFVx x, _, exec_ldFVx s x, rfl, glyphAddress_toNat (s.reg x)⟩

/-- Settles O41: with no key down LD Vx, K answers the state itself; else the highest key, which is below 16. -/
theorem keyWaitTakesTheHighestKey : Obligations.KeyWaitTakesTheHighestKey := by
  unfold Obligations.KeyWaitTakesTheHighestKey
  intro x s
  refine ⟨decode_ldVxK x, exec_ldVxK_waits x, fun k hk hhigh => ?_⟩
  refine ⟨_, exec_ldVxK_takes s x k hk hhigh, rfl, ?_, fun j hj => ?_⟩
  · exact (congrArg BitVec.toNat (s.reg_setReg_self x _)).trans (keyByte_toNat k)
  · exact s.reg_setReg_ne (List.ne_of_not_mem_cons hj) _

/-- Settles O19: the slot CALL pushed holds its own address, and RET pops that slot. -/
theorem callThenReturnComesBack : Obligations.CallThenReturnComesBack := by
  unfold Obligations.CallThenReturnComesBack
  intro nnn s t u hsp hcall husp hslot
  obtain rfl := Host.Outcome.next.inj ((exec_call_of_lt s nnn hsp).symm.trans hcall)
  let k : Fin 16 := ⟨s.sp.val, hsp⟩
  have htop : k.val + 1 = u.sp.val := (congrArg Fin.val husp).symm
  have hpushed : u.stack[k] = s.pc := (hslot k rfl).trans ((stack_set_get s.stack hsp s.pc k).trans (if_pos rfl))
  exact ⟨_, exec_ret_of_succ u k htop, congrArg (· + 2) hpushed, rfl⟩

/-- Settles O35: the load reads the block from the base the store wrote it to. -/
theorem blockStoreThenLoadRestores : Obligations.BlockStoreThenLoadRestores := by
  unfold Obligations.BlockStoreThenLoadRestores
  intro x s t v hin hstore
  have hspace : InSpace s.i.toNat (x.val + 1) := (inSpace_succ_iff _ _).mpr hin
  have hblock : s.i.toNat + (s.regsUpTo x).length ≤ memSize := s.length_regsUpTo x ▸ Nat.succ_le_succ hin
  obtain rfl := Host.Outcome.next.inj ((exec_ldMemVx_of_inSpace s x hspace).symm.trans hstore)
  refine ⟨_, exec_ldVxMem_of_inSpace _ x hspace, fun k hk => ?_, rfl⟩
  refine (State.regsFromMem_get _ x k).trans ((if_pos hk).trans ?_)
  exact s.readByte_writeBytes_of_get hblock (s.regsUpTo_get x k hk)

end Sys2Proof.Machine
end

section
/-!
SUPPORT. Drawing (spec section 43): the cells DRW flips are those its sprite covers, VF reports whether one of them was on, and
a second draw covers the same cells. From them O37 and O39.
-/
namespace Sys2Proof.Machine

variable (s : State) (x y : Reg) (n : Fin 16)

/-! ## The scan of a sprite -/

theorem State.length_readBytes (a k : Nat) : (s.readBytes a k).length = k := by
  induction k generalizing a with
  | zero => rfl
  | succ k ih => rw [State.readBytes, List.length_cons, ih]

/-- The cells a draw scans: the coordinates of the set bits, placed under the edge policy (R97). -/
abbrev State.placedPixels : List Pixel := (s.drawnPixels x y n).filterMap (place s.params.drawEdge)

theorem State.mem_placedPixels (p : Pixel) : p ∈ s.placedPixels x y n ↔ s.SpriteCovers x y n p := by
  rw [List.mem_filterMap, State.SpriteCovers]
  constructor
  · rintro ⟨q, hq, hp⟩
    obtain ⟨r, c, hbit, rfl⟩ := (s.mem_drawnPixels x y n q).mp hq
    exact ⟨r, c, hbit, (place_eq_some ..).mp hp⟩
  · rintro ⟨r, c, hbit, hp⟩
    exact ⟨_, (s.mem_drawnPixels x y n _).mpr ⟨r, c, hbit, rfl⟩, (place_eq_some ..).mpr hp⟩

theorem State.placedPixels_nodup : (s.placedPixels x y n).Nodup :=
  Sys2Proof.Machine.placedPixels_nodup _ _ _ _ (by rw [s.length_readBytes]; omega)

section Scan

variable {s x y n} {p : Pixel}

theorem State.drawScan_get_of_covers (h : s.SpriteCovers x y n p) :
    (s.drawScan x y n).1.get p = !s.fb.get p :=
  ((xorScan_spec _ (s.placedPixels_nodup x y n) s.fb false).1 p).trans (if_pos ((s.mem_placedPixels x y n p).mpr h))

theorem State.drawScan_get_of_not_covers (h : ¬ s.SpriteCovers x y n p) :
    (s.drawScan x y n).1.get p = s.fb.get p :=
  ((xorScan_spec _ (s.placedPixels_nodup x y n) s.fb false).1 p).trans
    (if_neg (mt (s.mem_placedPixels x y n p).mp h))

end Scan

/-- The collision flag: some covered cell was on (R96). -/
theorem State.drawScan_hit_iff :
    (s.drawScan x y n).2 = true ↔ ∃ p, s.SpriteCovers x y n p ∧ s.fb.get p = true := by
  have hscan : (s.drawScan x y n).2 = (false || (s.placedPixels x y n).any s.fb.get) :=
    (xorScan_spec _ (s.placedPixels_nodup x y n) s.fb false).2
  rw [hscan, Bool.false_or, List.any_eq_true]
  exact exists_congr fun p => and_congr_left' (s.mem_placedPixels x y n p)

/-! ## The answer of DRW -/

/-- The state a draw leaves where it takes no fault (R95, R96). -/
def State.afterDraw : State :=
  { s with
    fb := (s.drawScan x y n).1, fbChanged := true, v := (s.setReg vF (flagByte (s.drawScan x y n).2)).v,
    pc := s.pc + 2 }

theorem State.reg_afterDraw (k : Reg) :
    (s.afterDraw x y n).reg k = if k = vF then flagByte (s.drawScan x y n).2 else s.reg k :=
  s.reg_setReg vF k _

theorem exec_drw_of_runs (h : s.DrawRuns x y n) : exec (.drw x y n) s = .next (s.afterDraw x y n) := by
  obtain ⟨hin, hedge⟩ := h
  rw [← s.any_offGrid_drawnPixels] at hedge
  rcases execDrw_cases s x y n with ⟨hout, -⟩ | ⟨-, hleaves, -⟩ | ⟨-, -, he⟩
  · exact absurd hin hout
  · exact absurd hleaves hedge
  · exact he

theorem flagByte_eq_one_iff (b : Bool) : flagByte b = 1 ↔ b = true := by cases b <;> decide

theorem flagByte_eq_zero_iff (b : Bool) : flagByte b = 0 ↔ ¬ b = true := by cases b <;> decide

/-- VF after a draw is 1 exactly where a covered cell was on, else 0 (R96). -/
theorem State.vF_afterDraw_eq_one_iff :
    (s.afterDraw x y n).reg 15 = 1 ↔ ∃ p, s.SpriteCovers x y n p ∧ s.fb.get p = true := by
  rw [State.reg_afterDraw, if_pos rfl, flagByte_eq_one_iff, State.drawScan_hit_iff]

theorem State.vF_afterDraw_eq_zero_iff :
    (s.afterDraw x y n).reg 15 = 0 ↔ ¬ ∃ p, s.SpriteCovers x y n p ∧ s.fb.get p = true := by
  rw [State.reg_afterDraw, if_pos rfl, flagByte_eq_zero_iff, State.drawScan_hit_iff]

/-- Settles O37: the scan flips the covered cells and no other, and VF is its collision flag. -/
theorem drawFlipsExactlyTheSprite : Obligations.DrawFlipsExactlyTheSprite := by
  unfold Obligations.DrawFlipsExactlyTheSprite
  intro x y n s
  refine ⟨decode_drw x y n, fun hruns => ⟨_, exec_drw_of_runs s x y n hruns, rfl, ?_, ?_, ?_, ?_, fun k hk => ?_⟩⟩
  · exact fun p => State.drawScan_get_of_covers
  · exact fun p => State.drawScan_get_of_not_covers
  · exact (s.vF_afterDraw_eq_one_iff x y n).mpr
  · exact (s.vF_afterDraw_eq_zero_iff x y n).mpr
  · exact (s.reg_afterDraw x y n k).trans (if_neg (List.ne_of_not_mem_cons hk))

/-! ## A second draw -/

theorem Framebuffer.ext_get {f g : Framebuffer} (h : ∀ p, f.get p = g.get p) : f = g :=
  Vector.ext fun r hr => Vector.ext fun c hc => h (⟨r, hr⟩, ⟨c, hc⟩)

section SecondDraw

variable {s x y n} (hx : x ≠ 15) (hy : y ≠ 15)
include hx hy

/-- A draw writes VF alone, so the same draw reads the same sprite at the same place (R98). -/
theorem State.afterDraw_spriteCovers (p : Pixel) :
    (s.afterDraw x y n).SpriteCovers x y n p ↔ s.SpriteCovers x y n p := by
  have hrx := (s.reg_afterDraw x y n x).trans (if_neg hx)
  have hry := (s.reg_afterDraw x y n y).trans (if_neg hy)
  rw [State.SpriteCovers, hrx, hry]
  rfl

theorem State.afterDraw_drawRuns (h : s.DrawRuns x y n) : (s.afterDraw x y n).DrawRuns x y n := by
  have hrx := (s.reg_afterDraw x y n x).trans (if_neg hx)
  have hry := (s.reg_afterDraw x y n y).trans (if_neg hy)
  rw [State.DrawRuns, State.SpriteLeavesGrid, hrx, hry]
  exact h

/-- Each covered cell is flipped twice. -/
theorem State.afterDraw_twice_fb : ((s.afterDraw x y n).afterDraw x y n).fb = s.fb := by
  refine Framebuffer.ext_get fun p => ?_
  by_cases hp : s.SpriteCovers x y n p
  · have hsecond := State.drawScan_get_of_covers ((State.afterDraw_spriteCovers hx hy p).mpr hp)
    exact hsecond.trans ((congrArg not (State.drawScan_get_of_covers hp)).trans (Bool.not_not _))
  · have hsecond := State.drawScan_get_of_not_covers (mt (State.afterDraw_spriteCovers hx hy p).mp hp)
    exact hsecond.trans (State.drawScan_get_of_not_covers hp)

/-- The second draw collides where a covered cell was off before the first. -/
theorem State.vF_afterDraw_twice_eq_one_iff :
    ((s.afterDraw x y n).afterDraw x y n).reg 15 = 1 ↔ ∃ p, s.SpriteCovers x y n p ∧ s.fb.get p = false := by
  rw [State.vF_afterDraw_eq_one_iff]
  refine exists_congr fun p => ?_
  rw [State.afterDraw_spriteCovers hx hy p]
  refine and_congr_right fun hp => ?_
  have hflipped : (s.afterDraw x y n).fb.get p = !s.fb.get p := State.drawScan_get_of_covers hp
  rw [hflipped, Bool.not_eq_true']

end SecondDraw

/-- Settles O39: the second draw runs, covers the same cells and finds each of them flipped. -/
theorem drawingTwiceRestoresTheScreen : Obligations.DrawingTwiceRestoresTheScreen := by
  unfold Obligations.DrawingTwiceRestoresTheScreen
  intro x y n s hx hy hruns
  exact ⟨_, _, exec_drw_of_runs s x y n hruns, exec_drw_of_runs _ x y n (State.afterDraw_drawRuns hx hy hruns),
    State.afterDraw_twice_fb hx hy, State.vF_afterDraw_twice_eq_one_iff hx hy⟩

end Sys2Proof.Machine
end

section
/-!
SUPPORT. Non-interference of the control state (spec sections 10.11 and 10.12): two runs of one instruction that differ in `ir`,
the control flags and `last_error` alone. From them O49.
-/
namespace Sys2Proof.Machine

/-- `s` with the control state of `c`: `ir`, the control flags and `last_error` (R26 to R30). -/
def State.withControlOf (s c : State) : State :=
  { s with ir := c.ir, execEnabled := c.execEnabled, fbChanged := c.fbChanged, paused := c.paused,
           keyCaptured := c.keyCaptured, lastError := c.lastError }

/-- Both answer a next state, and the two states differ in their control state alone. -/
def SameData (a b : Answer) : Prop := ∃ t u, a = .next t ∧ b = .next u ∧ u = t.withControlOf u

/-- DRW scans the same cells of the same framebuffer: it reads memory, the registers and `I`. -/
theorem State.drawScan_withControlOf (s c : State) (x y : Reg) (n : Fin 16) :
    (s.withControlOf c).drawScan x y n = s.drawScan x y n := by
  have hrows : (s.withControlOf c).readBytes (s.dataAddress 0) n.val = s.readBytes (s.dataAddress 0) n.val :=
    State.readBytes_eq_of_mem (s := s) (t := s.withControlOf c) rfl rfl _ _
  have hpixels : (s.withControlOf c).drawnPixels x y n = s.drawnPixels x y n :=
    congrArg (fun rows => spritePixels rows (s.reg y).toNat (s.reg x).toNat) hrows
  exact congrArg (fun ps => xorScan (ps.filterMap (place s.params.drawEdge)) s.fb false) hpixels

/-- A draw leaves the same framebuffer and flag. -/
theorem State.afterDraw_withControlOf (s c : State) (x y : Reg) (n : Fin 16) :
    (s.withControlOf c).afterDraw x y n = (s.afterDraw x y n).withControlOf ((s.withControlOf c).afterDraw x y n) := by
  simp only [State.afterDraw, State.drawScan_withControlOf]
  rfl

/-- An instruction takes the same branch, to the same data, under any control state. -/
theorem exec_withControlOf (i : Instr) (s c : State) : SameData (exec i s) (exec i (s.withControlOf c)) := by
  cases i with
  | ret =>
    rcases s.pop_cases with ⟨hempty, -⟩ | ⟨k, hk, -⟩
    · exact ⟨_, _, exec_ret_empty s hempty, exec_ret_empty (s.withControlOf c) hempty, rfl⟩
    · exact ⟨_, _, exec_ret_of_succ s k hk, exec_ret_of_succ (s.withControlOf c) k hk, rfl⟩
  | call nnn =>
    rcases s.push_cases s.pc with ⟨hfull, -⟩ | ⟨hfree, -⟩
    · exact ⟨_, _, exec_call_full s nnn hfull, exec_call_full (s.withControlOf c) nnn hfull, rfl⟩
    · exact ⟨_, _, exec_call_of_lt s nnn hfree, exec_call_of_lt (s.withControlOf c) nnn hfree, rfl⟩
  | skp x =>
    rcases execSkp_cases s x with ⟨hnone, -⟩ | ⟨k, hk, -⟩
    · exact ⟨_, _, exec_skp_noKey s x hnone, exec_skp_noKey (s.withControlOf c) x hnone, rfl⟩
    · exact ⟨_, _, exec_skp_of_key s x k hk, exec_skp_of_key (s.withControlOf c) x k hk, rfl⟩
  | sknp x =>
    rcases execSknp_cases s x with ⟨hnone, -⟩ | ⟨k, hk, -⟩
    · exact ⟨_, _, exec_sknp_noKey s x hnone, exec_sknp_noKey (s.withControlOf c) x hnone, rfl⟩
    · exact ⟨_, _, exec_sknp_of_key s x k hk, exec_sknp_of_key (s.withControlOf c) x k hk, rfl⟩
  | ldVxK x =>
    rcases execLdVxK_cases s x with ⟨hup, -⟩ | ⟨k, ⟨hk, hhigh⟩, -⟩
    · exact ⟨_, _, exec_ldVxK_waits x hup, exec_ldVxK_waits (s := s.withControlOf c) x hup, rfl⟩
    · exact ⟨_, _, exec_ldVxK_takes s x k hk hhigh, exec_ldVxK_takes (s.withControlOf c) x k hk hhigh, rfl⟩
  | ldBVx x =>
    by_cases hin : InSpace s.i.toNat 3
    · exact ⟨_, _, exec_ldBVx_of_inSpace s x hin, exec_ldBVx_of_inSpace (s.withControlOf c) x hin, rfl⟩
    · exact ⟨_, _, exec_ldBVx_outside s x hin, exec_ldBVx_outside (s.withControlOf c) x hin, rfl⟩
  | ldMemVx x =>
    by_cases hin : InSpace s.i.toNat (x.val + 1)
    · exact ⟨_, _, exec_ldMemVx_of_inSpace s x hin, exec_ldMemVx_of_inSpace (s.withControlOf c) x hin, rfl⟩
    · exact ⟨_, _, exec_ldMemVx_outside s x hin, exec_ldMemVx_outside (s.withControlOf c) x hin, rfl⟩
  | ldVxMem x =>
    by_cases hin : InSpace s.i.toNat (x.val + 1)
    · exact ⟨_, _, exec_ldVxMem_of_inSpace s x hin, exec_ldVxMem_of_inSpace (s.withControlOf c) x hin, rfl⟩
    · exact ⟨_, _, exec_ldVxMem_outside s x hin, exec_ldVxMem_outside (s.withControlOf c) x hin, rfl⟩
  | drw x y n =>
    by_cases hin : InSpace s.i.toNat n.val
    · by_cases hedge : s.params.drawEdge = .fault ∧ s.SpriteLeavesGrid x y n
      · obtain ⟨hpolicy, hleaves⟩ := hedge
        exact ⟨_, _, exec_drw_leavesGrid s x y n hin hpolicy hleaves,
          exec_drw_leavesGrid (s.withControlOf c) x y n hin hpolicy hleaves, rfl⟩
      · exact ⟨_, _, exec_drw_of_runs s x y n ⟨hin, hedge⟩,
          exec_drw_of_runs (s.withControlOf c) x y n ⟨hin, hedge⟩, s.afterDraw_withControlOf c x y n⟩
    · exact ⟨_, _, exec_drw_outside s x y n hin, exec_drw_outside (s.withControlOf c) x y n hin, rfl⟩
  | cls | jp | seImm | sneImm | seReg | sneReg | jpV0
  | ldImm | addImm | ldReg | or | and | xor | addReg | sub | shr | subn | shl | rnd
  | ldI | addIVx | ldFVx | ldVxDt | ldDtVx | ldStVx =>
    exact ⟨_, _, rfl, rfl, rfl⟩

/-- Settles O49: the second state is the first one under its own control state. -/
theorem controlStateIsNeverRead : Obligations.ControlStateIsNeverRead := by
  unfold Obligations.ControlStateIsNeverRead
  intro i s s' t t' hs ht ht'
  obtain ⟨u, u', hu, hu', hdata⟩ := exec_withControlOf i s s'
  have hs' : s.withControlOf s' = s' := hs.symm
  rw [hs'] at hu'
  obtain rfl : u = t := Host.Outcome.next.inj (hu.symm.trans ht)
  obtain rfl : u' = t' := Host.Outcome.next.inj (hu'.symm.trans ht')
  exact hdata

end Sys2Proof.Machine
end

section
/-!
SUPPORT. The decoder inverted (spec section 30.4): a word is its class and fields in each format, and it decodes to an
instruction exactly where, its ignored bits cleared, it is the instruction's own word. From them O2 and O5.
-/
namespace Sys2Proof

variable (w : Word) (c : BitVec 4) (x y : Reg) (n : Fin 16) (k : Byte)

/-! ## A word from its fields -/

theorem encA_fields : encA (nibble1 w) (fieldNNN w) = w :=
  (BitVec.extractLsb'_append_extractLsb'_eq_extractLsb' rfl).trans BitVec.extractLsb'_eq_self

theorem encXKK_fields : encXKK (nibble1 w) (fieldX w) (fieldKK w) = w := by
  have hcx : w.extractLsb' 12 4 ++ w.extractLsb' 8 4 = w.extractLsb' 8 8 :=
    BitVec.extractLsb'_append_extractLsb'_eq_extractLsb' rfl
  calc encXKK (nibble1 w) (fieldX w) (fieldKK w)
      = (w.extractLsb' 12 4 ++ w.extractLsb' 8 4) ++ w.extractLsb' 0 8 := rfl
    _ = w.extractLsb' 0 16 := by rw [hcx]; exact BitVec.extractLsb'_append_extractLsb'_eq_extractLsb' rfl
    _ = w := BitVec.extractLsb'_eq_self

theorem encXYN_fields : encXYN (nibble1 w) (fieldX w) (fieldY w) (fieldN w) = w := by
  have hcx : w.extractLsb' 12 4 ++ w.extractLsb' 8 4 = w.extractLsb' 8 8 :=
    BitVec.extractLsb'_append_extractLsb'_eq_extractLsb' rfl
  have hcxy : w.extractLsb' 8 8 ++ w.extractLsb' 4 4 = w.extractLsb' 4 12 :=
    BitVec.extractLsb'_append_extractLsb'_eq_extractLsb' rfl
  calc encXYN (nibble1 w) (fieldX w) (fieldY w) (fieldN w)
      = ((w.extractLsb' 12 4 ++ w.extractLsb' 8 4) ++ w.extractLsb' 4 4) ++ w.extractLsb' 0 4 := rfl
    _ = w.extractLsb' 0 16 := by rw [hcx, hcxy]; exact BitVec.extractLsb'_append_extractLsb'_eq_extractLsb' rfl
    _ = w := BitVec.extractLsb'_eq_self

/-! ## Ignored bits cleared -/

/-- The ignored field X of CLS and RET, cleared. -/
theorem encXKK_clear_x : encXKK c x k &&& ~~~0x0F00 = encXKK c 0 k := by
  have h : ((c ++ (BitVec.ofFin x : BitVec 4)) ++ k) &&& ((0xF#4 ++ 0#4) ++ 0xFF#8) = (c ++ 0#4) ++ k := by
    simp only [BitVec.and_append, BitVec.and_zero, and_ones4, and_ones8]
  exact h

/-- The ignored low nibble of SE_REG and SNE_REG, cleared. -/
theorem encXYN_clear_n : encXYN c x y n &&& ~~~0x000F = encXYN c x y 0 := by
  have h : (((c ++ (BitVec.ofFin x : BitVec 4)) ++ (BitVec.ofFin y : BitVec 4)) ++ (BitVec.ofFin n : BitVec 4)) &&&
      (((0xF#4 ++ 0xF#4) ++ 0xF#4) ++ 0#4) =
        ((c ++ (BitVec.ofFin x : BitVec 4)) ++ (BitVec.ofFin y : BitVec 4)) ++ 0#4 := by
    simp only [BitVec.and_append, BitVec.and_zero, and_ones4]
  exact h

/-- The ignored field Y of SHR and SHL, cleared. -/
theorem encXYN_clear_y : encXYN c x y n &&& ~~~0x00F0 = encXYN c x 0 n := by
  have h : (((c ++ (BitVec.ofFin x : BitVec 4)) ++ (BitVec.ofFin y : BitVec 4)) ++ (BitVec.ofFin n : BitVec 4)) &&&
      (((0xF#4 ++ 0xF#4) ++ 0#4) ++ 0xF#4) =
        ((c ++ (BitVec.ofFin x : BitVec 4)) ++ 0#4) ++ (BitVec.ofFin n : BitVec 4) := by
    simp only [BitVec.and_append, BitVec.and_zero, and_ones4]
  exact h

theorem encXKK_inj {c c' : BitVec 4} {x x' : Reg} {k k' : Byte} :
    encXKK c x k = encXKK c' x' k' ↔ c = c' ∧ x = x' ∧ k = k' := by
  constructor
  · intro h
    exact ⟨by simpa using congrArg nibble1 h, by simpa using congrArg fieldX h, by simpa using congrArg fieldKK h⟩
  · rintro ⟨rfl, rfl, rfl⟩
    rfl

theorem encXYN_inj {c c' : BitVec 4} {x x' y y' : Reg} {n n' : Fin 16} :
    encXYN c x y n = encXYN c' x' y' n' ↔ c = c' ∧ x = x' ∧ y = y' ∧ n = n' := by
  constructor
  · intro h
    exact ⟨by simpa using congrArg nibble1 h, by simpa using congrArg fieldX h, by simpa using congrArg fieldY h,
      by simpa using congrArg fieldN h⟩
  · rintro ⟨rfl, rfl, rfl, rfl⟩
    rfl

theorem clear_x_eq_iff : w &&& ~~~0x0F00 = encXKK c 0 k ↔ nibble1 w = c ∧ fieldKK w = k := by
  have hw : w &&& ~~~0x0F00 = encXKK (nibble1 w) 0 (fieldKK w) :=
    (congrArg (· &&& _) (encXKK_fields w).symm).trans (encXKK_clear_x _ _ _)
  simp only [hw, encXKK_inj, true_and]

theorem clear_n_eq_iff : w &&& ~~~0x000F = encXYN c x y 0 ↔ nibble1 w = c ∧ fieldX w = x ∧ fieldY w = y := by
  have hw : w &&& ~~~0x000F = encXYN (nibble1 w) (fieldX w) (fieldY w) 0 :=
    (congrArg (· &&& _) (encXYN_fields w).symm).trans (encXYN_clear_n _ _ _ _)
  simp only [hw, encXYN_inj, and_true]

theorem clear_y_eq_iff : w &&& ~~~0x00F0 = encXYN c x 0 n ↔ nibble1 w = c ∧ fieldX w = x ∧ fieldN w = n := by
  have hw : w &&& ~~~0x00F0 = encXYN (nibble1 w) (fieldX w) 0 (fieldN w) :=
    (congrArg (· &&& _) (encXYN_fields w).symm).trans (encXYN_clear_y _ _ _ _)
  simp only [hw, encXYN_inj, true_and]

/-! ## The words of an instruction -/

/-- `Spells w i`: with the bits that `i` ignores cleared, `w` is the word an assembler writes for `i` (R57, R61). -/
def Spells (w : Word) (i : Instr) : Prop := w &&& ~~~ ignoredBits i.mnemonic = encode i

variable {w c x y n k}

/-- Where no bit is ignored, a word spells the instruction exactly if it is its word. -/
theorem spells_iff_eq {i : Instr} (hi : ignoredBits i.mnemonic = 0) : Spells w i ↔ w = encode i := by
  have hkeep : w &&& ~~~ (0 : Word) = w := BitVec.and_allOnes
  rw [Spells, hi, hkeep]

theorem spells_encA {i : Instr} (hi : ignoredBits i.mnemonic = 0) (hc : nibble1 w = c)
    (he : encode i = encA c (fieldNNN w)) : Spells w i := by
  rw [spells_iff_eq hi, he, ← hc, encA_fields]

theorem spells_encXKK {i : Instr} (hi : ignoredBits i.mnemonic = 0) (hc : nibble1 w = c) (hk : fieldKK w = k)
    (he : encode i = encXKK c (fieldX w) k) : Spells w i := by
  rw [spells_iff_eq hi, he, ← hc, ← hk, encXKK_fields]

theorem spells_encXYN {i : Instr} (hi : ignoredBits i.mnemonic = 0) (hc : nibble1 w = c) (hn : fieldN w = n)
    (he : encode i = encXYN c (fieldX w) (fieldY w) n) : Spells w i := by
  rw [spells_iff_eq hi, he, ← hc, ← hn, encXYN_fields]

section Classes

variable {i : Instr}

theorem spells_of_decodeClass0 (hc : nibble1 w = 0x0) (h : decodeClass0 w = .op i) : Spells w i := by
  unfold decodeClass0 at h
  split at h
  case h_1 hk => cases h; exact (clear_x_eq_iff w _ _).mpr ⟨hc, hk⟩
  case h_2 hk => cases h; exact (clear_x_eq_iff w _ _).mpr ⟨hc, hk⟩
  case h_3 => cases h

theorem spells_of_decodeClass8 (hc : nibble1 w = 0x8) (h : decodeClass8 w = .op i) : Spells w i := by
  unfold decodeClass8 at h
  split at h
  case h_7 hn | h_9 hn => cases h; exact (clear_y_eq_iff w _ _ _).mpr ⟨hc, rfl, hn⟩
  case h_10 => cases h
  case h_1 hn | h_2 hn | h_3 hn | h_4 hn | h_5 hn | h_6 hn | h_8 hn => cases h; exact spells_encXYN rfl hc hn rfl

theorem spells_of_decodeClassE (hc : nibble1 w = 0xE) (h : decodeClassE w = .op i) : Spells w i := by
  unfold decodeClassE at h
  split at h
  case h_1 hk | h_2 hk => cases h; exact spells_encXKK rfl hc hk rfl
  case h_3 => cases h

theorem spells_of_decodeClassF (hc : nibble1 w = 0xF) (h : decodeClassF w = .op i) : Spells w i := by
  unfold decodeClassF at h
  split at h
  case h_10 => cases h
  case h_1 hk | h_2 hk | h_3 hk | h_4 hk | h_5 hk | h_6 hk | h_7 hk | h_8 hk | h_9 hk =>
    cases h; exact spells_encXKK rfl hc hk rfl

/-- Class 0xF is the one nibble the decoder's other arms leave. -/
theorem spells_of_decode (h : decode w = .op i) : Spells w i := by
  unfold decode at h
  split at h
  case h_1 hc => exact spells_of_decodeClass0 hc h
  case h_9 hc => exact spells_of_decodeClass8 hc h
  case h_15 hc => exact spells_of_decodeClassE hc h
  case h_16 =>
    have hc : nibble1 w = 0xF := by
      simp only [imp_false] at *
      bv_omega
    exact spells_of_decodeClassF hc h
  case h_2 hc | h_3 hc | h_11 hc | h_12 hc => cases h; exact spells_encA rfl hc rfl
  case h_4 hc | h_5 hc | h_7 hc | h_8 hc | h_13 hc => cases h; exact spells_encXKK rfl hc rfl rfl
  case h_6 hc | h_10 hc => cases h; exact (clear_n_eq_iff w _ _ _).mpr ⟨hc, rfl, rfl⟩
  case h_14 hc => cases h; exact spells_encXYN rfl hc rfl rfl

theorem decode_of_spells (h : Spells w i) : decode w = .op i := by
  cases i with
  | cls =>
    obtain ⟨hc, hk⟩ := (clear_x_eq_iff w _ _).mp h
    rw [← encXKK_fields w, hc, hk, decode_cls]
  | ret =>
    obtain ⟨hc, hk⟩ := (clear_x_eq_iff w _ _).mp h
    rw [← encXKK_fields w, hc, hk, decode_ret]
  | seReg x y =>
    obtain ⟨hc, hx, hy⟩ := (clear_n_eq_iff w _ _ _).mp h
    rw [← encXYN_fields w, hc, hx, hy, decode_seReg]
  | sneReg x y =>
    obtain ⟨hc, hx, hy⟩ := (clear_n_eq_iff w _ _ _).mp h
    rw [← encXYN_fields w, hc, hx, hy, decode_sneReg]
  | shr x =>
    obtain ⟨hc, hx, hn⟩ := (clear_y_eq_iff w _ _ _).mp h
    rw [← encXYN_fields w, hc, hx, hn, decode_shr]
  | shl x =>
    obtain ⟨hc, hx, hn⟩ := (clear_y_eq_iff w _ _ _).mp h
    rw [← encXYN_fields w, hc, hx, hn, decode_shl]
  | jp | call | seImm | sneImm | ldImm | addImm | ldReg | or | and | xor | addReg | sub | subn | ldI | jpV0 | rnd | drw
  | skp | sknp | ldVxDt | ldVxK | ldDtVx | ldStVx | addIVx | ldFVx | ldBVx | ldMemVx | ldVxMem =>
    rw [(spells_iff_eq rfl).mp h]
    exact decodeOfEncodeIsTheInstruction _

/-- The decoder reads off exactly the instruction that the word spells. -/
theorem decode_eq_op_iff : decode w = .op i ↔ Spells w i := ⟨spells_of_decode, decode_of_spells⟩

end Classes

/-! ## The obligations -/

/-- Settles O2: the word spells the instruction. -/
theorem encodeOfDecodeClearsOnlyIgnoredBits : Obligations.EncodeOfDecodeClearsOnlyIgnoredBits := by
  unfold Obligations.EncodeOfDecodeClearsOnlyIgnoredBits
  intro w i h
  exact (decode_eq_op_iff.mp h).symm

/-- Bits changed inside a mask do not show outside it. -/
theorem xor_and_and_not (w m g : Word) : (w ^^^ (m &&& g)) &&& ~~~g = w &&& ~~~g := by
  ext b
  simp only [BitVec.getElem_and, BitVec.getElem_xor, BitVec.getElem_not]
  cases g[b] <;> simp

/-- Settles O5: with the ignored bits cleared the changed word is the old one, so it spells the same instruction. -/
theorem ignoredBitsChangeNothing : Obligations.IgnoredBitsChangeNothing := by
  unfold Obligations.IgnoredBitsChangeNothing
  intro w m i h
  exact decode_eq_op_iff.mpr ((xor_and_and_not w m _).trans (decode_eq_op_iff.mp h))

end Sys2Proof
end

section
/-!
SUPPORT. The words that are no operation, and the opcode table (spec sections 30.4 and 30.5). From them O3, O4 and O6.
-/
namespace Sys2Proof

variable {w : Word}

/-! ## Unknown words -/

theorem nibble1_toNat (w : Word) : (nibble1 w).toNat = w.toNat / 4096 := by
  have hw := w.isLt
  rw [nibble1, BitVec.extractLsb'_toNat, Nat.shiftRight_eq_div_pow]
  omega

theorem fieldKK_toNat (w : Word) : (fieldKK w).toNat = w.toNat % 256 := by
  rw [fieldKK, BitVec.extractLsb'_toNat, Nat.shiftRight_zero]

theorem fieldN_val (w : Word) : (fieldN w).val = w.toNat % 16 := by
  rw [fieldN, BitVec.val_toFin, BitVec.extractLsb'_toNat, Nat.shiftRight_zero]

theorem decodeClass0_eq_unknown_iff : decodeClass0 w = .unknown ↔ (fieldKK w).toNat ∉ [0xE0, 0xEE] := by
  unfold decodeClass0
  split <;> simp_all [BitVec.toNat_eq]

theorem decodeClass8_eq_unknown_iff :
    decodeClass8 w = .unknown ↔ (fieldN w).val ∈ [0x8, 0x9, 0xA, 0xB, 0xC, 0xD, 0xF] := by
  unfold decodeClass8
  split
  case h_10 =>
    simp only [imp_false, Fin.ext_iff] at *
    simp only [true_iff, List.mem_cons, List.not_mem_nil, or_false]
    omega
  all_goals simp [*]

theorem decodeClassE_eq_unknown_iff : decodeClassE w = .unknown ↔ (fieldKK w).toNat ∉ [0x9E, 0xA1] := by
  unfold decodeClassE
  split <;> simp_all [BitVec.toNat_eq]

theorem decodeClassF_eq_unknown_iff : decodeClassF w = .unknown ↔
    (fieldKK w).toNat ∉ [0x07, 0x0A, 0x15, 0x18, 0x1E, 0x29, 0x33, 0x55, 0x65] := by
  unfold decodeClassF
  split <;> simp_all [BitVec.toNat_eq]

/-- Only in the classes 0x0, 0x8, 0xE and 0xF is a word unknown. -/
theorem decode_eq_unknown_iff : decode w = .unknown ↔
    (nibble1 w = 0x0 ∧ decodeClass0 w = .unknown) ∨ (nibble1 w = 0x8 ∧ decodeClass8 w = .unknown) ∨
    (nibble1 w = 0xE ∧ decodeClassE w = .unknown) ∨ (nibble1 w = 0xF ∧ decodeClassF w = .unknown) := by
  unfold decode
  split
  case h_16 =>
    have hc : nibble1 w = 0xF := by
      simp only [imp_false] at *
      bv_omega
    simp [hc]
  all_goals simp [*]

/-- Settles O4: each class of the decoder against its list. -/
theorem illegalWordsAreTheListedOnes : Obligations.IllegalWordsAreTheListedOnes := by
  unfold Obligations.IllegalWordsAreTheListedOnes
  intro w
  have hclass (c : BitVec 4) : nibble1 w = c ↔ w.toNat / 4096 = c.toNat := by
    rw [← nibble1_toNat, BitVec.toNat_eq]
  rw [decode_eq_unknown_iff, decodeClass0_eq_unknown_iff, decodeClass8_eq_unknown_iff, decodeClassE_eq_unknown_iff,
    decodeClassF_eq_unknown_iff, hclass, hclass, hclass, hclass, fieldKK_toNat, fieldN_val]
  rfl

/-! ## The opcode table -/

/-- The word of each instruction is one an assembler writes, under the row of its mnemonic (R57, R61). -/
theorem encodedWord (i : Instr) : Laws.EncodedWord.Statement i := by
  cases i with
  | cls => exact Laws.EncodedWord.cls
  | ret => exact Laws.EncodedWord.ret
  | jp nnn => exact Laws.EncodedWord.jp nnn
  | call nnn => exact Laws.EncodedWord.call nnn
  | seImm x kk => exact Laws.EncodedWord.seImm x kk
  | sneImm x kk => exact Laws.EncodedWord.sneImm x kk
  | seReg x y => exact Laws.EncodedWord.seReg x y
  | ldImm x kk => exact Laws.EncodedWord.ldImm x kk
  | addImm x kk => exact Laws.EncodedWord.addImm x kk
  | ldReg x y => exact Laws.EncodedWord.ldReg x y
  | or x y => exact Laws.EncodedWord.or x y
  | and x y => exact Laws.EncodedWord.and x y
  | xor x y => exact Laws.EncodedWord.xor x y
  | addReg x y => exact Laws.EncodedWord.addReg x y
  | sub x y => exact Laws.EncodedWord.sub x y
  | shr x => exact Laws.EncodedWord.shr x
  | subn x y => exact Laws.EncodedWord.subn x y
  | shl x => exact Laws.EncodedWord.shl x
  | sneReg x y => exact Laws.EncodedWord.sneReg x y
  | ldI nnn => exact Laws.EncodedWord.ldI nnn
  | jpV0 nnn => exact Laws.EncodedWord.jpV0 nnn
  | rnd x kk => exact Laws.EncodedWord.rnd x kk
  | drw x y n => exact Laws.EncodedWord.drw x y n
  | skp x => exact Laws.EncodedWord.skp x
  | sknp x => exact Laws.EncodedWord.sknp x
  | ldVxDt x => exact Laws.EncodedWord.ldVxDt x
  | ldVxK x => exact Laws.EncodedWord.ldVxK x
  | ldDtVx x => exact Laws.EncodedWord.ldDtVx x
  | ldStVx x => exact Laws.EncodedWord.ldStVx x
  | addIVx x => exact Laws.EncodedWord.addIVx x
  | ldFVx x => exact Laws.EncodedWord.ldFVx x
  | ldBVx x => exact Laws.EncodedWord.ldBVx x
  | ldMemVx x => exact Laws.EncodedWord.ldMemVx x
  | ldVxMem x => exact Laws.EncodedWord.ldVxMem x

/-- No row of the table asks for a bit that its operation ignores. -/
theorem opcodeTable_mask_not_ignored :
    ∀ r ∈ opcodeTable, ~~~ ignoredBits r.mnemonic &&& r.mask = r.mask := by decide

/-- A mnemonic names one row. -/
theorem opcodeTable_mnemonic_inj :
    ∀ r ∈ opcodeTable, ∀ q ∈ opcodeTable, r.mnemonic = q.mnemonic → r = q := by decide

/-- Patterns of different rows disagree on a bit that both rows ask for. -/
theorem opcodeTable_disjoint :
    ∀ r ∈ opcodeTable, ∀ q ∈ opcodeTable, r.pattern &&& q.mask = q.pattern &&& r.mask → r = q := by decide

/-- Each row asks for the class, and in the classes with a sub-code for the whole sub-code (R50). -/
theorem opcodeTable_masks : ∀ r ∈ opcodeTable, nibble1 r.mask = 0xF ∧
    (nibble1 r.pattern ∈ [0x0#4, 0xE#4, 0xF#4] → fieldKK r.mask = 0xFF) ∧
    (nibble1 r.pattern = 0x8 → fieldN r.mask = 0xF) := by decide

theorem opcodeTable_pattern_decodes : ∀ r ∈ opcodeTable, decode r.pattern ≠ .unknown := by decide

theorem nibble1_and_of_ones {m : Word} (hm : nibble1 m = 0xF) : nibble1 (w &&& m) = nibble1 w :=
  BitVec.extractLsb'_and.trans ((congrArg (nibble1 w &&& ·) hm).trans (and_ones4 _))

theorem fieldKK_and_of_ones {m : Word} (hm : fieldKK m = 0xFF) : fieldKK (w &&& m) = fieldKK w :=
  BitVec.extractLsb'_and.trans ((congrArg (fieldKK w &&& ·) hm).trans (and_ones8 _))

theorem fieldN_and_of_ones {m : Word} (hm : fieldN m = 0xF) : fieldN (w &&& m) = fieldN w := by
  have hlow : m.extractLsb' 0 4 = 0xF#4 := congrArg BitVec.ofFin hm
  have hand : (w &&& m).extractLsb' 0 4 = w.extractLsb' 0 4 := by rw [BitVec.extractLsb'_and, hlow, and_ones4]
  exact congrArg BitVec.toFin hand

section Rows

variable {r q : OpcodeRow} (hr : r ∈ opcodeTable)
include hr

/-- A row matches no unknown word: the word shares class and sub-code with the row's pattern, which decodes. -/
theorem decode_ne_unknown_of_hits (h : r.hits w = true) : decode w ≠ .unknown := by
  have hw : w &&& r.mask = r.pattern := beq_iff_eq.mp h
  obtain ⟨hclass, hlow, hnibble⟩ := opcodeTable_masks r hr
  have hc : nibble1 r.pattern = nibble1 w := hw ▸ nibble1_and_of_ones hclass
  have hkk (hsub : nibble1 w ∈ [0x0#4, 0xE#4, 0xF#4]) : fieldKK r.pattern = fieldKK w :=
    hw ▸ fieldKK_and_of_ones (hlow (hc ▸ hsub))
  have hn (hsub : nibble1 w = 0x8) : fieldN r.pattern = fieldN w := hw ▸ fieldN_and_of_ones (hnibble (hc.trans hsub))
  refine mt ?_ (opcodeTable_pattern_decodes r hr)
  simp only [decode_eq_unknown_iff, decodeClass0_eq_unknown_iff, decodeClass8_eq_unknown_iff,
    decodeClassE_eq_unknown_iff, decodeClassF_eq_unknown_iff, hc]
  rintro (⟨h0, hsub⟩ | ⟨h8, hsub⟩ | ⟨hE, hsub⟩ | ⟨hF, hsub⟩)
  · exact .inl ⟨h0, by rwa [hkk (by simp [h0])]⟩
  · exact .inr (.inl ⟨h8, by rwa [hn h8]⟩)
  · exact .inr (.inr (.inl ⟨hE, by rwa [hkk (by simp [hE])]⟩))
  · exact .inr (.inr (.inr ⟨hF, by rwa [hkk (by simp [hF])]⟩))

/-- No word matches two rows. -/
theorem row_eq_of_hits (hq : q ∈ opcodeTable) (h : r.hits w = true) (h' : q.hits w = true) : r = q := by
  refine opcodeTable_disjoint r hr q hq ?_
  rw [← beq_iff_eq.mp h, ← beq_iff_eq.mp h', BitVec.and_assoc, BitVec.and_assoc, BitVec.and_comm r.mask]

/-- The row that matches an instruction's own word matches every word that spells the instruction. -/
theorem hits_of_spells {i : Instr} (hm : r.mnemonic = i.mnemonic) (h : r.hits (encode i) = true) (hs : Spells w i) :
    r.hits w = true := by
  refine beq_iff_eq.mpr ?_
  calc w &&& r.mask
      = w &&& ~~~ ignoredBits i.mnemonic &&& r.mask := by
        rw [BitVec.and_assoc, ← hm, opcodeTable_mask_not_ignored r hr]
    _ = encode i &&& r.mask := congrArg (· &&& r.mask) hs
    _ = r.pattern := beq_iff_eq.mp h

end Rows

/-- Settles O3: the row of the instruction that a word spells matches it, and by disjointness no other does. -/
theorem decodeAgreesWithOpcodeTable : Obligations.DecodeAgreesWithOpcodeTable := by
  unfold Obligations.DecodeAgreesWithOpcodeTable
  intro w
  split
  case h_1 i hd =>
    intro r hr
    obtain ⟨q, hq, hqm, hencoded, -⟩ := encodedWord i
    have hits := hits_of_spells hq hqm hencoded (decode_eq_op_iff.mp hd)
    constructor
    · intro h
      rw [row_eq_of_hits hr hq h hits, hqm]
    · intro hm
      rwa [opcodeTable_mnemonic_inj r hr q hq (hm.trans hqm.symm)]
  case h_2 hd =>
    intro r hr
    exact Bool.eq_false_iff.mpr fun h => decode_ne_unknown_of_hits hr h hd

/-- Settles O6: each word evaluated. -/
theorem specWordsDecodeAsStated : Obligations.SpecWordsDecodeAsStated := by
  unfold Obligations.SpecWordsDecodeAsStated
  decide

end Sys2Proof
end
